-- ==== Sys2Proof/Word.lean ====
section
/-! DEFINITION. The words of base58_codec (00_scope.md R7, R8, R12) and nothing else. -/

namespace Sys2Proof

/-- A character lane, 8 bits (R8). -/
abbrev Byte := BitVec 8

/-- A base-58 digit lane, 6 bits (R7). -/
abbrev Digit := BitVec 6

/-- An op code, 2 bits (R8). -/
abbrev OpCode := BitVec 2

/-- A status code, 3 bits (R8). -/
abbrev StatusCode := BitVec 3

/-- A UuidValue as the ports carry it, 128 bits, bit 127 most significant (R7, R75). -/
abbrev UuidValue := BitVec 128

/-- The length of a candidate string, 32 bits unsigned (R8, R77). -/
abbrev Length := BitVec 32

/-- Twenty-two character lanes, lane 0 in the top bits (R12). -/
abbrev CharWord := BitVec 176

/-- Twenty-two digit lanes, lane 0 in the top bits (R12). -/
abbrev DigitWord := BitVec 132

/-- The command word CMD (R72). -/
abbrev CmdWord := BitVec 338

end Sys2Proof
end

