-- ==== Sys2Proof/Syntax.lean ====
section
/-! DEFINITION. The commands, what the ports carry, and the assembler statements (30_encoding.md). -/

namespace Sys2Proof

/-- A command, one constructor per row of opcode_table.json (R73). Every command carries every field of
CMD (R72), the don't-care fields of R74 among them, so that no bit of the word is lost. -/
inductive Instr where
  | encode (value : UuidValue) (len : Length) (chars : CharWord)
  | decode (value : UuidValue) (len : Length) (chars : CharWord)
  | validate (value : UuidValue) (len : Length) (chars : CharWord)
  | rsv (value : UuidValue) (len : Length) (chars : CharWord)
  deriving DecidableEq, Repr

/-- The input ports as sampled at one rising edge of `clk` (R70). -/
structure Ports where
  rst      : Bool
  cmdValid : Bool
  cmdOp    : OpCode
  cmdValue : UuidValue
  cmdLen   : Length
  cmdChars : CharWord
  deriving DecidableEq, Repr

/-- One sample of the input ports. Only `binary` is inside the spec (R216, U8, U9). -/
inductive PortSample where
  /-- Every port is 0 or 1 and one agent drives the command ports. -/
  | binary (p : Ports)
  /-- Some port is X or Z (D29). -/
  | notBinary
  /-- Two host agents drive `cmd_*` in the same cycle (R190). -/
  | contended
  deriving DecidableEq, Repr

/-- The arguments of `complete` (R33): what one command answers. -/
structure Response where
  status  : StatusCode
  isvalid : Bool
  value   : UuidValue
  digits  : DigitWord
  chars   : CharWord
  deriving DecidableEq, Repr, Inhabited

/-- The output ports (R71). -/
structure Outputs where
  cmdReady   : Bool
  rspValid   : Bool
  rspOp      : OpCode
  rspStatus  : StatusCode
  rspIsvalid : Bool
  rspValue   : UuidValue
  rspDigits  : DigitWord
  rspChars   : CharWord
  deriving DecidableEq, Repr

/-- The `chars=` operand of an assembler statement (R81): 44 hex digits, or a text. -/
inductive CharsArg where
  | hex (w : CharWord)
  | text (t : List Char)
  deriving DecidableEq, Repr

/-- The four operation names an assembler statement can begin with (R81). -/
inductive OpName where
  | encode | decode | validate | rsv
  deriving DecidableEq, Repr

/-- A line of a host program (R81, R82). An operation's field that is left out is `none`; every operation
may carry every field (DESIGN CHOICE, log 21). -/
inductive Statement where
  | command (op : OpName) (value : Option UuidValue) (len : Option Nat) (chars : Option CharsArg)
  | encodeUuid (uuid : List Char)
  | decodeS (s : List Char)
  | validateS (s : List Char)
  | wait
  | idle (k : Nat)
  | reset
  deriving DecidableEq, Repr

end Sys2Proof
end

