-- ==== Sys2Proof/Config.lean ====
section
/-! DEFINITION. What the spec leaves to an implementation or a platform (00_scope.md R9,
93_implementation_defined.md). Every constant here is without a body: nothing can be proved of its value. -/

namespace Sys2Proof

/-- What a free value may depend on: a counter that makes each draw a fresh one, the command it is drawn
for, and what the response registers held just before the edge (log 4). -/
structure Config.Seed where
  tick  : Nat
  cmd   : CmdWord
  rspOp : OpCode
  held  : Response

/-! Latency (R9, R32, D12; log 6). -/

opaque Config.latMaxLessOne : Nat

/-- LAT_MAX, an integer ≥ 1. -/
def Config.latMax : Nat := Config.latMaxLessOne + 1

opaque Config.latEncDraw : Config.Seed → Nat
opaque Config.latDecDraw : Config.Seed → Nat
opaque Config.latValDraw : Config.Seed → Nat
opaque Config.latRsvDraw : Config.Seed → Nat

/-- A draw brought into [1, LAT_MAX]; every value of that range is some draw's. -/
def Config.bounded (draw : Nat) : Nat := draw % Config.latMax + 1

def Config.latEnc (z : Config.Seed) : Nat := Config.bounded (Config.latEncDraw z)
def Config.latDec (z : Config.Seed) : Nat := Config.bounded (Config.latDecDraw z)
def Config.latVal (z : Config.Seed) : Nat := Config.bounded (Config.latValDraw z)
def Config.latRsv (z : Config.Seed) : Nat := Config.bounded (Config.latRsvDraw z)

/-! The response outputs in a busy cycle (R35, U1; log 5). -/

opaque Config.busyOp : Config.Seed → OpCode
opaque Config.busyStatus : Config.Seed → StatusCode
opaque Config.busyIsvalid : Config.Seed → Bool
opaque Config.busyValue : Config.Seed → UuidValue
opaque Config.busyDigits : Config.Seed → DigitWord
opaque Config.busyChars : Config.Seed → CharWord

/-! The captured command registers after a reset edge (R31, R40, U3; log 3). -/

opaque Config.resetCmdOp : Config.Seed → OpCode
opaque Config.resetCmdValue : Config.Seed → UuidValue
opaque Config.resetCmdLen : Config.Seed → Length
opaque Config.resetCmdChars : Config.Seed → CharWord

/-! Every register before the first reset edge (R232, U2; log 7), one draw for each power-up. -/

opaque Config.powerUpBusy : Nat → Bool
opaque Config.powerUpRspValid : Nat → Bool
opaque Config.powerUpRspOp : Nat → OpCode
opaque Config.powerUpResponse : Nat → Response
opaque Config.powerUpCmd : Nat → CmdWord
opaque Config.powerUpRemain : Nat → Nat
opaque Config.powerUpTick : Nat → Nat

/-! Platform parameters (R9; log 16). -/

opaque Config.numInstancesLessOne : Nat

/-- NUM_INSTANCES, an integer ≥ 1 (R218). -/
def Config.numInstances : Nat := Config.numInstancesLessOne + 1

/-- IRQ_WIRING: does the platform route `rsp_valid` to an interrupt controller (R208)? -/
opaque Config.irqWiring : Bool

end Sys2Proof
end

