-- ==== Sys2Proof/WellFormed.lean ====
section
/-! DEFINITION. Which commands and which assembler statements are legal (30_encoding.md R75, R79, R81). -/

namespace Sys2Proof

/-- Every field pattern of every op is a legal command: no value is illegal (R75), every don't-care
combination is legal, and op 0b11 is accepted like any other (R79). So there is nothing to refuse. -/
def Instr.wf : Instr → Bool
  | .encode _ _ _ => true
  | .decode _ _ _ => true
  | .validate _ _ _ => true
  | .rsv _ _ _ => true

/-- A written `len` fits the 32 bits of `cmd_len`. R81 gives `len=<decimal>` no bound, and R77 saturates only
the length of a string: that a larger number is no statement is DESIGN CHOICE (log 20). -/
def Statement.lenFits : Option Nat → Bool
  | none => true
  | some n => n < 2 ^ 32

/-- R81: `chars="<text>"` needs at most 22 characters, or a written `len` other than 22. -/
def Statement.charsAllowed (len : Option Nat) : Option CharsArg → Bool
  | none => true
  | some (.hex _) => true
  | some (.text t) =>
    t.length ≤ 22 ||
      match len with
      | none => false
      | some n => n != 22

/-- The statements R81 and R82 allow. That each of the four operations may carry or leave out each of the
three fields is DESIGN CHOICE (log 21): R81's lines show an operation with the fields it reads, and say
"optional" of RSV's only. -/
def Statement.wf : Statement → Bool
  | .command _ _ len chars => Statement.lenFits len && Statement.charsAllowed len chars
  | .encodeUuid _ => true
  | .decodeS _ => true
  | .validateS _ => true
  | .wait => true
  | .idle _ => true
  | .reset => true

end Sys2Proof
end

