-- ==== Sys2Proof/Decode.lean ====
section
/-! DEFINITION. The command word CMD of 30_encoding.md R72, read and written. -/

namespace Sys2Proof

/-! The fields of CMD (R72). -/

def opField (w : CmdWord) : OpCode := w.extractLsb' 336 2
def valueField (w : CmdWord) : UuidValue := w.extractLsb' 208 128
def lenField (w : CmdWord) : Length := w.extractLsb' 176 32
def charsField (w : CmdWord) : CharWord := w.extractLsb' 0 176

/-- The concatenation `{ cmd_op, cmd_value, cmd_len, cmd_chars }` of R72. -/
def cmdWord (op : OpCode) (value : UuidValue) (len : Length) (chars : CharWord) : CmdWord :=
  op ++ value ++ len ++ chars

/-- The command a word stands for. The op field alone selects the row (R73, R80), and every word selects
one (R79), so this reading refuses nothing. -/
def decodeCmd (w : CmdWord) : Instr :=
  if opField w = 0b00 then .encode (valueField w) (lenField w) (charsField w)
  else if opField w = 0b01 then .decode (valueField w) (lenField w) (charsField w)
  else if opField w = 0b10 then .validate (valueField w) (lenField w) (charsField w)
  else .rsv (valueField w) (lenField w) (charsField w)

/-- The op code of a command (R73). -/
def Instr.op : Instr → OpCode
  | .encode _ _ _ => 0b00
  | .decode _ _ _ => 0b01
  | .validate _ _ _ => 0b10
  | .rsv _ _ _ => 0b11

def Instr.value : Instr → UuidValue
  | .encode v _ _ => v
  | .decode v _ _ => v
  | .validate v _ _ => v
  | .rsv v _ _ => v

def Instr.len : Instr → Length
  | .encode _ l _ => l
  | .decode _ l _ => l
  | .validate _ l _ => l
  | .rsv _ l _ => l

def Instr.chars : Instr → CharWord
  | .encode _ _ c => c
  | .decode _ _ c => c
  | .validate _ _ c => c
  | .rsv _ _ c => c

/-- The CMD word of a command (R72, R73). -/
def encodeCmd (i : Instr) : CmdWord := cmdWord i.op i.value i.len i.chars

/-! The rows of opcode_table.json, as mask and match over CMD (R73, R79). -/

/-- A row's mask: bits 337:336. -/
def rowMask : CmdWord := 0b11#338 <<< 336

/-- A row's match: the op code in bits 337:336. -/
def rowMatch : OpName → CmdWord
  | .encode => 0b00#338 <<< 336
  | .decode => 0b01#338 <<< 336
  | .validate => 0b10#338 <<< 336
  | .rsv => 0b11#338 <<< 336

def rowSelects (r : OpName) (w : CmdWord) : Bool := w &&& rowMask == rowMatch r

/-- The row of a command. -/
def Instr.row : Instr → OpName
  | .encode _ _ _ => .encode
  | .decode _ _ _ => .decode
  | .validate _ _ _ => .validate
  | .rsv _ _ _ => .rsv

/-! The command word as bytes. R72: "no serial form exists". DESIGN CHOICE (log 11): 43 bytes, bits 7:0 of
CMD first, the six bits above bit 337 zero. -/

/-- Why bytes are not a command. -/
inductive DecodeError where
  /-- Fewer than 43 bytes. -/
  | truncated
  /-- A bit above CMD[337] is 1. -/
  | paddingNotZero
  deriving DecidableEq, Repr

/-- How many bytes hold CMD. -/
def cmdBytes : Nat := 43

/-- The number a list of bytes stands for, the first byte least significant. -/
def natOfBytes : List Byte → Nat
  | [] => 0
  | b :: bs => b.toNat + 256 * natOfBytes bs

/-- The first `k` bytes of a number, the least significant first. -/
def bytesOfNat : Nat → Nat → List Byte
  | 0, _ => []
  | k + 1, n => BitVec.ofNat 8 n :: bytesOfNat k (n / 256)

/-- The command the first 43 bytes stand for, and the bytes after them. -/
def decodeBytes (bs : List Byte) : Except DecodeError (Instr × List Byte) :=
  if bs.length < cmdBytes then .error .truncated
  else if 2 ^ 338 ≤ natOfBytes (bs.take cmdBytes) then .error .paddingNotZero
  else .ok (decodeCmd (BitVec.ofNat 338 (natOfBytes (bs.take cmdBytes))), bs.drop cmdBytes)

/-- The bytes of a command. -/
def encode (i : Instr) : List Byte := bytesOfNat cmdBytes (encodeCmd i).toNat

/-- The command read from a row of opcode_table.json whose `nbits` bits are `w`, numbered as the table
numbers CMD; the bits above `nbits` are zero. -/
def decodeTableWord (nbits w : Nat) : Option Instr :=
  match decodeBytes (bytesOfNat (max cmdBytes ((nbits + 7) / 8)) (w % 2 ^ nbits)) with
  | .ok (i, _) => some i
  | .error _ => none

end Sys2Proof
end

