-- ==== Sys2Proof/Machine/Radix.lean ====
section
/-! DEFINITION. Positional numerals of a fixed width, on natural numbers (00_scope.md R11). One pair of
functions serves base 58 (R120, R142), the lanes of a word (R12) and hex text (R181, R183). -/

namespace Sys2Proof.Machine

/-- `k` steps of `n mod b`, then `n div b`: the digits come least significant first, so each is put in
front of those found before (the loop of R120). -/
def expand (b : Nat) : Nat → Nat → List Nat → List Nat
  | 0, _, acc => acc
  | k + 1, n, acc => expand b k (n / b) (n % b :: acc)

/-- `n <- n * b + d`, from left to right (the loop of R140). -/
def contract (b : Nat) : Nat → List Nat → Nat
  | n, [] => n
  | n, d :: ds => contract b (n * b + d) ds

end Sys2Proof.Machine
end

