-- ==== Sys2Proof/Machine/Tables.lean ====
section
/-! DEFINITION. The constant tables (20_memory.md R50 to R55) and the lookup primitives (40_alphabet.md). -/

namespace Sys2Proof.Machine

/-! ROM_ALPHA (R51, R100): the digit group, the uppercase group without I and O, the lowercase group
without l. -/

def romAlphaDigits : List Byte :=
  [0x31, 0x32, 0x33, 0x34, 0x35, 0x36, 0x37, 0x38, 0x39]

def romAlphaUpper : List Byte :=
  [0x41, 0x42, 0x43, 0x44, 0x45, 0x46, 0x47, 0x48, 0x4A, 0x4B, 0x4C, 0x4D, 0x4E,
   0x50, 0x51, 0x52, 0x53, 0x54, 0x55, 0x56, 0x57, 0x58, 0x59, 0x5A]

def romAlphaLower : List Byte :=
  [0x61, 0x62, 0x63, 0x64, 0x65, 0x66, 0x67, 0x68, 0x69, 0x6A, 0x6B,
   0x6D, 0x6E, 0x6F, 0x70, 0x71, 0x72, 0x73, 0x74, 0x75, 0x76, 0x77, 0x78, 0x79, 0x7A]

def romAlpha : List Byte := romAlphaDigits ++ romAlphaUpper ++ romAlphaLower

/-- SYM (R102). A 6-bit index 58..63 is not an entry: `none`, which a meaning turns into a fault. -/
def sym (d : Digit) : Option Byte := romAlpha[d.toNat]?

/-- An entry of ROM_INV: `{member, digit[5:0]}` (R52). -/
structure InvEntry where
  member : Bool
  digit  : Digit
  deriving DecidableEq, Repr

/-- A row of R104's table. -/
structure InvRange where
  lo     : Byte
  hi     : Byte
  offset : Byte
  deriving DecidableEq, Repr

/-- The six ranges of R104. -/
def invRanges : List InvRange :=
  [⟨0x31, 0x39, 0x31⟩, ⟨0x41, 0x48, 0x38⟩, ⟨0x4A, 0x4E, 0x39⟩,
   ⟨0x50, 0x5A, 0x3A⟩, ⟨0x61, 0x6B, 0x40⟩, ⟨0x6D, 0x7A, 0x41⟩]

/-- Does the code lie in the range? -/
def inRange (c : Byte) (r : InvRange) : Bool := r.lo ≤ c && c ≤ r.hi

/-- DIG, the entry of ROM_INV for a code (R104). A code outside the six ranges is no member, and its digit
is the spec's own 0 (R53; log 12). -/
def dig (c : Byte) : InvEntry :=
  match invRanges.find? (inRange c) with
  | some r => ⟨true, (c - r.offset).setWidth 6⟩
  | none => ⟨false, 0⟩

/-- MEMBER (R105). -/
def member (c : Byte) : Bool :=
  (0x31 ≤ c && c ≤ 0x39) || (0x41 ≤ c && c ≤ 0x48) || (0x4A ≤ c && c ≤ 0x4E) ||
  (0x50 ≤ c && c ≤ 0x5A) || (0x61 ≤ c && c ≤ 0x6B) || (0x6D ≤ c && c ≤ 0x7A)

/-- ROM_MAX_DIGITS, lane 0 first (R54, R55). -/
def romMaxDigits : List Digit :=
  [31, 35, 28, 38, 55, 43, 23, 34, 5, 17, 24, 57, 48, 43, 4, 43, 14, 1, 51, 21, 19, 53]

/-- ROM_MAX_CHARS, lane 0 first (R54, R55). -/
def romMaxChars : List Byte :=
  [0x59, 0x63, 0x56, 0x66, 0x78, 0x6B, 0x51, 0x62, 0x36, 0x4A, 0x52, 0x7A, 0x71, 0x6B, 0x35, 0x6B,
   0x46, 0x32, 0x74, 0x4E, 0x4C, 0x76]

/-- MAXD(i), for a lane 0..21 (R107). -/
def maxd (i : Nat) : Option Digit := romMaxDigits[i]?

/-- MAXC(i), for a lane 0..21 (R107). -/
def maxc (i : Nat) : Option Byte := romMaxChars[i]?

end Sys2Proof.Machine
end

