-- ==== Sys2Proof/Machine/Operands.lean ====
section
/-! DEFINITION. Operand and result assembly: the lanes of the character and digit words (00_scope.md R12,
30_encoding.md R75 to R78). -/

namespace Sys2Proof.Machine

/-- `w[175-8*i : 168-8*i]`, for a lane i in 0..21 (R12). -/
def lane8 (w : CharWord) (i : Nat) : Byte := w.extractLsb' (168 - 8 * i) 8

/-- `w[131-6*i : 126-6*i]`, for a lane i in 0..21 (R12). -/
def lane6 (w : DigitWord) (i : Nat) : Digit := w.extractLsb' (126 - 6 * i) 6

/-- The 22 character lanes, lane 0 first. -/
def lanes8 (w : CharWord) : List Byte := (List.range 22).map (lane8 w)

/-- The 22 digit lanes, lane 0 first. -/
def lanes6 (w : DigitWord) : List Digit := (List.range 22).map (lane6 w)

/-- The concatenation of 22 digits, the first in the most significant position (R10, R78). -/
def packDigits (ds : List Digit) : DigitWord := BitVec.ofNat 132 (contract 64 0 (ds.map BitVec.toNat))

/-- The concatenation of 22 characters, the first in the most significant position (R10, R78). -/
def packChars (cs : List Byte) : CharWord := BitVec.ofNat 176 (contract 256 0 (cs.map BitVec.toNat))

/-- SYM of each digit; `none` if one of them has no symbol (R102). -/
def symbols : List Digit → Option (List Byte)
  | [] => some []
  | d :: ds =>
    match sym d, symbols ds with
    | some c, some cs => some (c :: cs)
    | _, _ => none

/-- DIG of each character, from left to right; `none` at a character that is no member (R140). -/
def digits : List Byte → Option (List Digit)
  | [] => some []
  | c :: cs =>
    if (dig c).member then
      match digits cs with
      | some ds => some ((dig c).digit :: ds)
      | none => none
    else none

end Sys2Proof.Machine
end

