-- ==== Sys2Proof/Machine/Flags.lean ====
section
/-! DEFINITION. The condition outputs. The block has no flag register (10_state.md R37); what plays the part
of flags is RSP_STATUS (60_exceptions.md R200) and RSP_ISVALID (43_validate.md R160). -/

namespace Sys2Proof.Machine

/-- The statuses a command can complete with (R200). -/
inductive Status where
  | ok | errLength | errSymbol | errRange | errOpcode
  deriving DecidableEq, Repr

/-- The status codes (R200). -/
def statusCode : Status → StatusCode
  | .ok => 0
  | .errLength => 1
  | .errSymbol => 2
  | .errRange => 3
  | .errOpcode => 4

/-- A code that completion never produces: 5, 6 or 7 (R200, R26). -/
def statusUnused (c : StatusCode) : Bool := 4 < c.toNat

/-- The length test of DECODE and VALIDATE: is the length 22 (R141, R161)? -/
def lengthOk (len : Length) : Bool := len == 22

/-- Is every lane an alphabet symbol (R105)? -/
def allMembers (cs : List Byte) : Bool := cs.all member

/-- Step (c) of VALIDATE: the first lane where the digits differ from MAX's decides, and all equal is
accepted (R160). -/
def notAbove : List Digit → List Digit → Bool
  | e :: es, m :: ms => if m < e then false else if e < m then true else notAbove es ms
  | _, _ => true

/-- RSP_ISVALID of a VALIDATE (R160). -/
def verdict (len : Length) (chars : CharWord) : Bool :=
  lengthOk len && allMembers (lanes8 chars) &&
    notAbove ((lanes8 chars).map fun c => (dig c).digit) romMaxDigits

/-- "exactly 22 characters drawn from the alphabet": steps (a) and (b) of VALIDATE alone (R165). -/
def formatOk (len : Length) (chars : CharWord) : Bool := lengthOk len && allMembers (lanes8 chars)

end Sys2Proof.Machine
end

