-- ==== Sys2Proof/Machine/State.lean ====
section
/-! DEFINITION. The state of the block (10_state.md) and the ways a step can stop (60_exceptions.md R216). -/

namespace Sys2Proof.Machine

/-- The faults R216 asks a model for. Both are unreachable in the block. -/
inductive Fault where
  /-- SYM at an index 58..63 (R51, R102). Raised by `execEncode`. Safe: no digit reaches it (R124). -/
  | symIndexUnreachable
  /-- A completion with a status 5, 6 or 7 (R200). Raised by `complete`. Safe: no operation writes one (R26). -/
  | statusCodeUnreachable
  deriving DecidableEq, Repr

/-- The runs the model has no meaning for. -/
inductive Refusal where
  /-- A command without a meaning. Used by no arm of `exec`. -/
  | notModelled (mnemonic : String)
  /-- An input port is X or Z (R216, D29). Raised by `step`. Safe: such a run is outside the spec. -/
  | portNotBinary
  /-- Two host agents drive `cmd_*` in one cycle (R190, U9). Raised by `step`. Safe: outside the spec. -/
  | commandPortsContended
  deriving DecidableEq, Repr

/-- The state of one instance of the block, at the moment just before a rising edge. -/
structure State where
  busy       : Bool
  rspValid   : Bool
  rspOp      : OpCode
  rspStatus  : StatusCode
  rspIsvalid : Bool
  rspValue   : UuidValue
  rspDigits  : DigitWord
  rspChars   : CharWord
  cmdOpL     : OpCode
  cmdValueL  : UuidValue
  cmdLenL    : Length
  cmdCharsL  : CharWord
  remain     : Nat
  inputs     : List PortSample
  freeTick   : Nat
  deriving DecidableEq, Repr

/-- Right after a reset edge (R40). The captured command registers are unspecified there; their zeros, the
empty `inputs` and the zero `freeTick` are DESIGN CHOICE (log 3, log 1, log 4). -/
def State.reset : State where
  busy := false
  rspValid := false
  rspOp := 0
  rspStatus := 0
  rspIsvalid := false
  rspValue := 0
  rspDigits := 0
  rspChars := 0
  cmdOpL := 0
  cmdValueL := 0
  cmdLenL := 0
  cmdCharsL := 0
  remain := 0
  inputs := []
  freeTick := 0

end Sys2Proof.Machine
end

