-- ==== Sys2Proof/Machine/Ops.lean ====
section
/-! DEFINITION. The named operations on the registers: completion (10_state.md R33), and the edges of
70_reset_and_hazards.md that run no command. There is no trap entry and no trap return (60_exceptions.md
R206, R207): an error is a status in the response, written by the same `complete`. -/

namespace Sys2Proof.Machine

/-- The response of a command that has no result to give: every data field 0 (R33, R201). -/
def bare (st : Status) : Response := ⟨statusCode st, false, 0, 0, 0⟩

/-- What `complete(status, isvalid, value, digits, chars)` of R33 leaves. `op` is the op code the command was
accepted with (CMD_OP_L, R25). REMAIN reaches 0 at this edge (R32; log 19). -/
def completed (op : OpCode) (r : Response) (s : State) : State :=
  { s with
    rspOp := op, rspStatus := r.status, rspIsvalid := r.isvalid, rspValue := r.value,
    rspDigits := r.digits, rspChars := r.chars, busy := false, rspValid := true, remain := 0 }

/-- Completion (R33). A status 5 to 7 is the unreachable fault of R216. -/
def complete (op : OpCode) (r : Response) (s : State) : Host.Outcome State Fault Refusal :=
  if statusUnused r.status then .fault .statusCodeUnreachable else .next (completed op r s)

/-- The response registers, as one record. -/
def response (s : State) : Response := ⟨s.rspStatus, s.rspIsvalid, s.rspValue, s.rspDigits, s.rspChars⟩

/-- The captured command registers, as the CMD word (R31, R72). -/
def captured (s : State) : CmdWord := cmdWord s.cmdOpL s.cmdValueL s.cmdLenL s.cmdCharsL

/-- The command ports, as the CMD word (R72). -/
def portWord (p : Ports) : CmdWord := cmdWord p.cmdOp p.cmdValue p.cmdLen p.cmdChars

/-- The output ports: each driven by its register, and `cmd_ready` = NOT BUSY (R71). -/
def outputs (s : State) : Outputs :=
  ⟨!s.busy, s.rspValid, s.rspOp, s.rspStatus, s.rspIsvalid, s.rspValue, s.rspDigits, s.rspChars⟩

/-- What the free values drawn at this edge are applied to (log 4). -/
def seed (cmd : CmdWord) (s : State) : Config.Seed := ⟨s.freeTick, cmd, s.rspOp, response s⟩

/-- The latency L of the accepted op, 1 ≤ L ≤ LAT_MAX (R9, R32). -/
def latency (op : OpCode) (z : Config.Seed) : Nat :=
  if op = 0b00 then Config.latEnc z
  else if op = 0b01 then Config.latDec z
  else if op = 0b10 then Config.latVal z
  else Config.latRsv z

/-- In every busy cycle the response outputs are unspecified: a fresh draw each (R35). -/
def drawBusyOutputs (cmd : CmdWord) (s : State) : State :=
  { s with
    rspOp := Config.busyOp (seed cmd s), rspStatus := Config.busyStatus (seed cmd s),
    rspIsvalid := Config.busyIsvalid (seed cmd s), rspValue := Config.busyValue (seed cmd s),
    rspDigits := Config.busyDigits (seed cmd s), rspChars := Config.busyChars (seed cmd s),
    freeTick := s.freeTick + 1 }

/-- The accept edge (R236). -/
def acceptEdge (p : Ports) (s : State) : State :=
  { drawBusyOutputs (portWord p) s with
    cmdOpL := p.cmdOp, cmdValueL := p.cmdValue, cmdLenL := p.cmdLen, cmdCharsL := p.cmdChars,
    busy := true, rspValid := false, remain := latency p.cmdOp (seed (portWord p) s) }

/-- A busy edge that is not the completion edge: `REMAIN <- REMAIN - 1` (R235; log 8 for REMAIN = 0). -/
def countdownEdge (s : State) : State :=
  { drawBusyOutputs (captured s) s with remain := s.remain - 1 }

/-- The reset edge (R230, R40). The captured command registers become unspecified (log 3). -/
def resetEdge (s : State) : State :=
  { s with
    busy := false, rspValid := false, rspOp := 0, rspStatus := 0, rspIsvalid := false, rspValue := 0,
    rspDigits := 0, rspChars := 0, remain := 0,
    cmdOpL := Config.resetCmdOp (seed (captured s) s),
    cmdValueL := Config.resetCmdValue (seed (captured s) s),
    cmdLenL := Config.resetCmdLen (seed (captured s) s),
    cmdCharsL := Config.resetCmdChars (seed (captured s) s),
    freeTick := s.freeTick + 1 }

/-- The idle edge: no register changes (R241). -/
def holdEdge (s : State) : State := s

/-- The ports of a host that asks for nothing: `rst = 0` and `cmd_valid = 0`. -/
def idlePorts : Ports := ⟨false, false, 0, 0, 0, 0⟩

/-- The sample of the coming edge; when the list has ended the host asks for nothing (log 1). -/
def sampleOf : List PortSample → PortSample
  | [] => .binary idlePorts
  | x :: _ => x

/-- The state with the sample of this edge taken off the list. -/
def taken (s : State) : State := { s with inputs := s.inputs.tail }

/-- Before the first reset edge every register is unspecified (R232). `k` tells one power-up from another;
`inputs` is what the host will drive. -/
def powerUp (k : Nat) (inputs : List PortSample) : State where
  busy := Config.powerUpBusy k
  rspValid := Config.powerUpRspValid k
  rspOp := Config.powerUpRspOp k
  rspStatus := (Config.powerUpResponse k).status
  rspIsvalid := (Config.powerUpResponse k).isvalid
  rspValue := (Config.powerUpResponse k).value
  rspDigits := (Config.powerUpResponse k).digits
  rspChars := (Config.powerUpResponse k).chars
  cmdOpL := opField (Config.powerUpCmd k)
  cmdValueL := valueField (Config.powerUpCmd k)
  cmdLenL := lenField (Config.powerUpCmd k)
  cmdCharsL := charsField (Config.powerUpCmd k)
  remain := Config.powerUpRemain k
  inputs := inputs
  freeTick := Config.powerUpTick k

end Sys2Proof.Machine
end

