-- ==== Sys2Proof/Machine/Decoder.lean ====
section
/-! DEFINITION. DECODE, the sub-block base58_decoder (42_decode.md). -/

namespace Sys2Proof.Machine

/-- The value of 22 lanes, all members: `Σ d[i] · 58^(21−i)` with lane 0 most significant (R142). -/
def magnitude (chars : CharWord) : Nat :=
  ∑ i ∈ Finset.range 22, (dig (lane8 chars i)).digit.toNat * 58 ^ (21 - i)

/-- DecodeF of R140: length, then symbols, then range (R145). -/
def decodeF (len : Length) (chars : CharWord) : Response :=
  if lengthOk len then
    match digits (lanes8 chars) with
    | none => bare .errSymbol
    | some ds =>
      if contract 58 0 (ds.map BitVec.toNat) > 2 ^ 128 - 1 then bare .errRange
      else ⟨statusCode .ok, false, BitVec.ofNat 128 (contract 58 0 (ds.map BitVec.toNat)), 0, 0⟩
  else bare .errLength

/-- DECODE completes (R140). `value` is don't care (R74). -/
def execDecode (_value : UuidValue) (len : Length) (chars : CharWord) (s : State) :
    Host.Outcome State Fault Refusal :=
  complete 0b01 (decodeF len chars) s

end Sys2Proof.Machine
end

