-- ==== Sys2Proof/Machine/Encoder.lean ====
section
/-! DEFINITION. ENCODE, the sub-block base58_encoder (41_encode.md). -/

namespace Sys2Proof.Machine

/-- The 22 base-58 digits of a value, lane 0 first (the loop of R120). -/
def encodeDigits (value : UuidValue) : List Digit := (expand 58 22 value.toNat []).map (BitVec.ofNat 6)

/-- EncodeF of R120. `none` would be a digit without a symbol, which R124 excludes. -/
def encodeF (value : UuidValue) : Option Response :=
  match symbols (encodeDigits value) with
  | some cs => some ⟨statusCode .ok, false, 0, packDigits (encodeDigits value), packChars cs⟩
  | none => none

/-- ENCODE completes (R120). `len` and `chars` are don't care (R74). -/
def execEncode (value : UuidValue) (_len : Length) (_chars : CharWord) (s : State) :
    Host.Outcome State Fault Refusal :=
  match encodeF value with
  | some r => complete 0b00 r s
  | none => .fault .symIndexUnreachable

end Sys2Proof.Machine
end

