-- ==== Sys2Proof/Machine/Reserved.lean ====
section
/-! DEFINITION. The reserved op code 0b11 (60_exceptions.md R205). -/

namespace Sys2Proof.Machine

/-- RSV completes with ERR_OPCODE and reads no field (R205). -/
def execRsv (_value : UuidValue) (_len : Length) (_chars : CharWord) (s : State) :
    Host.Outcome State Fault Refusal :=
  complete 0b11 (bare .errOpcode) s

end Sys2Proof.Machine
end

