-- ==== Sys2Proof/Machine/Validator.lean ====
section
/-! DEFINITION. VALIDATE, the sub-block base58_validator (43_validate.md). -/

namespace Sys2Proof.Machine

/-- ValidateF of R160: the status is always OK and the answer is the verdict. -/
def validateF (len : Length) (chars : CharWord) : Response :=
  ⟨statusCode .ok, verdict len chars, 0, 0, 0⟩

/-- VALIDATE completes (R160). `value` is don't care (R74). -/
def execValidate (_value : UuidValue) (len : Length) (chars : CharWord) (s : State) :
    Host.Outcome State Fault Refusal :=
  complete 0b10 (validateF len chars) s

end Sys2Proof.Machine
end

