-- ==== Sys2Proof/Machine/Dispatch.lean ====
section
/-! DEFINITION. The completion of a command (R33, R238), one arm per row of opcode_table.json. -/

namespace Sys2Proof.Machine

def exec (i : Instr) (s : State) : Host.Outcome State Fault Refusal :=
  match i with
  | .encode value len chars => Sys2Proof.Machine.execEncode value len chars s
  | .decode value len chars => Sys2Proof.Machine.execDecode value len chars s
  | .validate value len chars => Sys2Proof.Machine.execValidate value len chars s
  | .rsv value len chars => Sys2Proof.Machine.execRsv value len chars s

end Sys2Proof.Machine
end

