-- ==== Sys2Proof/Machine/Edge.lean ====
section
/-! DEFINITION. One rising edge of `clk` (70_reset_and_hazards.md R235), and the state in which the next
edge completes a given command. -/

namespace Sys2Proof.Machine

/-- The five cases of R235. At the completion edge the captured command is executed (R238, R239). -/
def edge (p : Ports) (s : State) : Host.Outcome State Fault Refusal :=
  if p.rst then .next (resetEdge s)
  else if !s.busy && p.cmdValid then .next (acceptEdge p s)
  else if s.busy && s.remain == 1 then exec (decodeCmd (captured s)) s
  else if s.busy then .next (countdownEdge s)
  else .next (holdEdge s)

/-- One edge with a sample of the input ports; X, Z and contended samples are refused (R216, U8, U9). -/
def sampleEdge (x : PortSample) (s : State) : Host.Outcome State Fault Refusal :=
  match x with
  | .binary p => edge p s
  | .notBinary => .refused .portNotBinary
  | .contended => .refused .commandPortsContended

/-- The inputs with an idle sample for the coming edge; an empty list already gives one. -/
def idleFirst : List PortSample → List PortSample
  | [] => []
  | x :: xs => .binary idlePorts :: x :: xs

/-- The state in which command word `w` has been accepted and the coming edge is its completion edge: it
is captured, BUSY is 1, RSP_VALID is 0 and REMAIN is 1 (R236 with L = 1), and the host idles (log 2). -/
def accepted (w : CmdWord) (s : State) : State :=
  { s with
    cmdOpL := opField w, cmdValueL := valueField w, cmdLenL := lenField w, cmdCharsL := charsField w,
    busy := true, rspValid := false, remain := 1, inputs := idleFirst s.inputs }

end Sys2Proof.Machine
end

