-- ==== Sys2Proof/Machine/Step.lean ====
section
/-! DEFINITION. The step: one rising edge of `clk` (R235), with the ports sampled from `inputs`. -/

namespace Sys2Proof.Machine

/-- One rising edge. -/
def step (s : State) : Host.Outcome State Fault Refusal := sampleEdge (sampleOf s.inputs) (taken s)

/-- The block runs no stored program: a command comes from the ports at an accept edge and is executed at
its completion edge. This is the state in which the coming edge executes the command of a table row
(log 2). -/
def State.withFetchWord (s : State) (nbits w : Nat) : State :=
  accepted (BitVec.ofNat 338 (w % 2 ^ nbits)) s

end Sys2Proof.Machine
end

