-- ==== Sys2Proof/Machine/Respond.lean ====
section
/-! DEFINITION. What a command answers, as a pure function of the command (00_scope.md R14, 10_state.md R34). -/

namespace Sys2Proof.Machine

/-- The response of a command. `none` is the unreachable SYM fault of ENCODE (R102, R124). -/
def respond : Instr → Option Response
  | .encode value _ _ => encodeF value
  | .decode _ len chars => some (decodeF len chars)
  | .validate _ len chars => some (validateF len chars)
  | .rsv _ _ _ => some (bare .errOpcode)

end Sys2Proof.Machine
end

