-- ==== Sys2Proof/Machine/TextLayer.lean ====
section
/-! DEFINITION. The host's text layer and the four source operations, outside the block
(44_host_interface.md; R76, R77, R82). A text is its list of characters, first character first (log 15). -/

namespace Sys2Proof.Machine

/-- The two error kinds of the source (R182, R185); the failure of the random source, which is fatal and no
error of the block (R188); and a line that is no statement of R81 (log 20). -/
inductive HostError where
  | encodeError | decodeError | entropyFailure | notAStatement
  deriving DecidableEq, Repr

/-! UUID text (R181 to R183). -/

/-- The value of a hex digit, letters of either case (R181 steps 2 and 3). -/
def hexValue (c : Char) : Option Nat :=
  if '0' ≤ c ∧ c ≤ '9' then some (c.toNat - '0'.toNat)
  else if 'a' ≤ c ∧ c ≤ 'f' then some (c.toNat - 'a'.toNat + 10)
  else if 'A' ≤ c ∧ c ≤ 'F' then some (c.toNat - 'A'.toNat + 10)
  else none

/-- The values of hex digits; `none` if a character is no hex digit. -/
def hexValues : List Char → Option (List Nat)
  | [] => some []
  | c :: cs =>
    match hexValue c, hexValues cs with
    | some d, some ds => some (d :: ds)
    | _, _ => none

/-- R181 step 1: delete every '-' wherever it stands (D25). -/
def stripHyphens (t : List Char) : List Char := t.filter (· != '-')

/-- Parse UUID text into a value (R181, R182). -/
def parseUuid (t : List Char) : Except HostError UuidValue :=
  if (stripHyphens t).length = 32 then
    match hexValues (stripHyphens t) with
    | some ds => .ok (BitVec.ofNat 128 (contract 16 0 ds))
    | none => .error .encodeError
  else .error .encodeError

/-- A lowercase hex digit (R183). -/
def hexChar (d : Nat) : Char :=
  ['0', '1', '2', '3', '4', '5', '6', '7', '8', '9', 'a', 'b', 'c', 'd', 'e', 'f'].getD d '0'

/-- The 32 lowercase hex digits of a value, most significant first (R183). -/
def hexText (v : UuidValue) : List Char := (expand 16 32 v.toNat []).map hexChar

/-- '-' after hex digits 8, 12, 16 and 20 (R183). -/
def groupUuid (h : List Char) : List Char :=
  h.take 8 ++ '-' :: ((h.drop 8).take 4 ++ '-' :: ((h.drop 12).take 4 ++ '-' ::
    ((h.drop 16).take 4 ++ '-' :: h.drop 20)))

/-- Render a value as UUID text (R183). -/
def renderUuid (v : UuidValue) : List Char := groupUuid (hexText v)

/-- Byte k of the UUID, k = 0..15 in text order (R56). -/
def uuidByte (v : UuidValue) (k : Nat) : Byte := v.extractLsb' (120 - 8 * k) 8

/-! Strings on the lanes (R76, R77). -/

/-- The lane value of a character: its code point below 0x80, else the canonical 0x80 (R76; log 15). -/
def charByte (c : Char) : Byte := if c.toNat < 0x80 then BitVec.ofNat 8 c.toNat else 0x80

/-- The first 22 characters in lanes 0 onward; the lanes beyond them hold the canonical 0x00 (R76). -/
def packText (t : List Char) : CharWord :=
  packChars ((t.map charByte ++ List.replicate 22 0).take 22)

/-- The length of a string, saturated at 2^32 − 1 (R77). -/
def textLength (t : List Char) : Length := BitVec.ofNat 32 (min t.length (2 ^ 32 - 1))

/-- The characters of a result word, lane 0 first (R184 step 3). -/
def unpackText (w : CharWord) : List Char := (lanes8 w).map fun b => Char.ofNat b.toNat

/-! The four source operations (R184 to R187). Each issues the command the rule names and reads the
response of that command (`respond`). -/

/-- `encode(uuidText)` (R184). The inner error is the unreachable fault of ENCODE. -/
def hostEncode (uuid : List Char) : Except HostError (List Char) :=
  match parseUuid uuid with
  | .error e => .error e
  | .ok n =>
    match respond (.encode n 0 0) with
    | some r => .ok (unpackText r.chars)
    | none => .error .encodeError

/-- The command of `DECODE.S "<s>"` (R82). -/
def decodeCommand (s : List Char) : Instr := .decode 0 (textLength s) (packText s)

/-- The command of `VALIDATE.S "<s>"` (R82). -/
def validateCommand (s : List Char) : Instr := .validate 0 (textLength s) (packText s)

/-- `decode(base58Text)` (R185). -/
def hostDecode (s : List Char) : Except HostError (List Char) :=
  match respond (decodeCommand s) with
  | some r => if r.status = statusCode .ok then .ok (renderUuid r.value) else .error .decodeError
  | none => .error .decodeError

/-- `isValid(candidate)` (R186). -/
def hostIsValid (s : List Char) : Bool :=
  match respond (validateCommand s) with
  | some r => r.isvalid
  | none => false

/-- The generator's bit shaping: bits [79:76] become 0b0100 and bits [63:62] become 0b10 (R187 step 2). -/
def shapeV4 (r : UuidValue) : UuidValue :=
  (r &&& ~~~((0b1111#128 <<< 76) ||| (0b11#128 <<< 62))) ||| ((0b0100#128 <<< 76) ||| (0b10#128 <<< 62))

/-- `generate()` (R187). The random source is an argument; `none` is its failure, which is fatal (R188). -/
def hostGenerate (random : Option UuidValue) : Except HostError (List Char) :=
  match random with
  | none => .error .entropyFailure
  | some r =>
    match respond (.encode (shapeV4 r) 0 0) with
    | some a => .ok (unpackText a.chars)
    | none => .error .encodeError

end Sys2Proof.Machine
end

