-- ==== Sys2Proof/Machine/Driver.lean ====
section
/-! DEFINITION. A host that runs a program of R81 and R82 statements against the block. The program's
statements become actions at the ports; the host reads `cmd_ready` and `rsp_valid` (log 18). -/

namespace Sys2Proof.Machine

/-- What a host does at the ports. -/
inductive HostAct where
  /-- Present a command until the first edge at which `cmd_ready = 1` (R82). -/
  | issue (i : Instr)
  /-- Present a command for one edge only, and withdraw it (R244). -/
  | pulse (i : Instr)
  /-- Hold `cmd_valid = 0` until `rsp_valid = 1` is sampled (R82). -/
  | wait
  /-- Hold `cmd_valid = 0` for `k` cycles (R82). -/
  | idle (k : Nat)
  /-- Drive `rst = 1` for one rising edge (R82). -/
  | reset
  deriving DecidableEq, Repr

/-- The ports that present a command. -/
def portsOf (i : Instr) : Ports := ⟨false, true, i.op, i.value, i.len, i.chars⟩

/-- The ports of `RESET`. -/
def resetPorts : Ports := ⟨true, false, 0, 0, 0, 0⟩

/-- The command of an operation statement (R81). -/
def commandOf (op : OpName) (value : UuidValue) (len : Length) (chars : CharWord) : Instr :=
  match op with
  | .encode => .encode value len chars
  | .decode => .decode value len chars
  | .validate => .validate value len chars
  | .rsv => .rsv value len chars

/-- The `chars` field of an operation statement; left out, it is 0 (R81). -/
def charsOf : Option CharsArg → CharWord
  | none => 0
  | some (.hex w) => w
  | some (.text t) => packText t

/-- The actions of a statement (R81, R82). A statement that R81 does not allow is rejected, so no written
`len` wraps; that a `len` of 2^32 or more is among these is DESIGN CHOICE (log 20). On EncodeError no command
is issued (R182). -/
def expandStatement (st : Statement) : Except HostError (List HostAct) :=
  if st.wf then
    match st with
    | .command op value len chars =>
      .ok [.issue (commandOf op (value.getD 0) (BitVec.ofNat 32 (len.getD 0)) (charsOf chars))]
    | .encodeUuid t =>
      match parseUuid t with
      | .ok n => .ok [.issue (.encode n 0 0)]
      | .error e => .error e
    | .decodeS s => .ok [.issue (decodeCommand s)]
    | .validateS s => .ok [.issue (validateCommand s)]
    | .wait => .ok [.wait]
    | .idle k => .ok [.idle k]
    | .reset => .ok [.reset]
  else .error .notAStatement

/-- Take off the front of a program what has been performed once `valid` is sampled and needs no further
edge: a `wait` that samples `rsp_valid = 1`, and an `idle` whose cycles have passed. The flag says whether the
last statement performed issued a command whose end is still awaited (R248). -/
def settle (valid : Bool) : List HostAct → Bool → List HostAct × Bool
  | .wait :: rest, awaiting => if valid then settle valid rest false else (.wait :: rest, awaiting)
  | .idle 0 :: rest, _ => settle valid rest false
  | acts, awaiting => (acts, awaiting)

/-- What the host drives at the coming edge, what is left of its program after that edge, and whether a
command's end is then awaited. `ready` and `valid` are the outputs it samples. -/
def drive (ready valid : Bool) (acts : List HostAct) (awaiting : Bool) : Ports × List HostAct × Bool :=
  match settle valid acts awaiting with
  | ([], a) => (idlePorts, [], a)
  | (.issue i :: rest, a) => if ready then (portsOf i, rest, true) else (portsOf i, .issue i :: rest, a)
  | (.pulse i :: rest, _) => (portsOf i, rest, ready)
  | (.wait :: rest, a) => (idlePorts, .wait :: rest, a)
  | (.idle k :: rest, _) => (idlePorts, .idle (k - 1) :: rest, false)
  | (.reset :: rest, _) => (resetPorts, rest, false)

/-- A host with its program, and the block. -/
structure System where
  host     : List HostAct
  awaiting : Bool
  block    : State
  deriving DecidableEq, Repr

/-- One rising edge of host and block together. The block's `inputs` hold the one sample driven. -/
def systemStep (y : System) : Host.Outcome System Fault Refusal :=
  match step { y.block with
      inputs := [.binary (drive (outputs y.block).cmdReady (outputs y.block).rspValid y.host y.awaiting).1] } with
  | .next s => .next
      ⟨(drive (outputs y.block).cmdReady (outputs y.block).rspValid y.host y.awaiting).2.1,
       (drive (outputs y.block).cmdReady (outputs y.block).rspValid y.host y.awaiting).2.2, s⟩
  | .fault e => .fault e
  | .refused e => .refused e

/-- `k` edges of host and block. -/
def systemRun : Nat → System → Host.Outcome System Fault Refusal
  | 0, y => .next y
  | k + 1, y =>
    match systemStep y with
    | .next z => systemRun k z
    | .fault e => .fault e
    | .refused e => .refused e

/-- The program has ended: every statement has been performed and, if the last one issued a command, the
host samples `rsp_valid = 1` (R248). -/
def System.ended (y : System) : Bool :=
  match settle (outputs y.block).rspValid y.host y.awaiting with
  | ([], awaiting) => !awaiting || (outputs y.block).rspValid
  | (_ :: _, _) => false

end Sys2Proof.Machine
end

