-- ==== Sys2Proof/Machine/Platform.lean ====
section
/-! DEFINITION. Several instances of the block (60_exceptions.md R218) and the routing of `rsp_valid` to an
interrupt controller (R208). -/

namespace Sys2Proof.Machine

/-- NUM_INSTANCES copies, each with its own ports, registers and reset. -/
def platformReset : List State := List.replicate Config.numInstances State.reset

/-- One edge of instance `k`; the others do not move: DESIGN CHOICE (log 16). `none` if there is no instance
`k`. -/
def platformStep : Nat → List State → Option (Host.Outcome (List State) Fault Refusal)
  | _, [] => none
  | 0, s :: ss =>
    match step s with
    | .next t => some (.next (t :: ss))
    | .fault e => some (.fault e)
    | .refused e => some (.refused e)
  | k + 1, s :: ss =>
    match platformStep k ss with
    | some (.next ts) => some (.next (s :: ts))
    | some (.fault e) => some (.fault e)
    | some (.refused e) => some (.refused e)
    | none => none

/-- Where the platform routes `rsp_valid`, the interrupt is pending while it is 1 (R208). -/
def irqPending (s : State) : Bool := Config.irqWiring && (outputs s).rspValid

end Sys2Proof.Machine
end

