-- ==== Sys2Proof/Machine/Variants.lean ====
section
/-! DEFINITION. The other structures the spec allows an implementation (41_encode.md R121, 42_decode.md R144,
43_validate.md R162). `exec` calls none of them; statements say that each gives the result of the normative rule. -/

namespace Sys2Proof.Machine

/-- The source's loop: emit `n mod 58` and replace `n` with `n div 58` until `n` is zero, least significant
digit first (R120, R121). The bound `fuel` only makes the recursion structural. -/
def sourceEmit : Nat → Nat → List Nat
  | 0, _ => []
  | fuel + 1, n => if n = 0 then [] else n % 58 :: sourceEmit fuel (n / 58)

/-- Reverse the emitted digits and left-pad with the zero digit to width 22 (R121). -/
def sourceDigits (fuel n : Nat) : List Nat :=
  List.replicate (22 - (sourceEmit fuel n).length) 0 ++ (sourceEmit fuel n).reverse

/-- A 128-bit accumulator that wraps, with a sticky overflow bit set whenever `58 * n + d` reaches 2^128
and never cleared (R144). -/
def stickyContract : UuidValue × Bool → List Digit → UuidValue × Bool
  | acc, [] => acc
  | (n, sticky), d :: ds =>
    stickyContract
      (BitVec.ofNat 128 (58 * n.toNat + d.toNat), sticky || decide (2 ^ 128 ≤ 58 * n.toNat + d.toNat)) ds

/-- DECODE with the sticky accumulator of R144. -/
def decodeSticky (len : Length) (chars : CharWord) : Response :=
  if lengthOk len then
    match digits (lanes8 chars) with
    | none => bare .errSymbol
    | some ds =>
      if (stickyContract (0, false) ds).2 then bare .errRange
      else ⟨statusCode .ok, false, (stickyContract (0, false) ds).1, 0, 0⟩
  else bare .errLength

/-- Step (c) of VALIDATE on the character codes instead of the digits (R162). -/
def codesNotAbove : List Byte → List Byte → Bool
  | c :: cs, m :: ms => if m < c then false else if c < m then true else codesNotAbove cs ms
  | _, _ => true

/-- VALIDATE's verdict with step (c) by codes, taken only when step (b) has passed (R162). -/
def verdictByCodes (len : Length) (chars : CharWord) : Bool :=
  lengthOk len && allMembers (lanes8 chars) && codesNotAbove (lanes8 chars) romMaxChars

end Sys2Proof.Machine
end

