-- ==== Sys2Proof/Safety.lean ====
section
/-! DEFINITION. What a state of a correct run looks like. -/

namespace Sys2Proof.Machine

/-- The response registers hold what the captured command answers (R25, R33, R34). -/
def answers (s : State) : Prop :=
  s.rspOp = s.cmdOpL ∧ respond (decodeCmd (captured s)) = some (response s)

/-- BUSY: RSP_VALID is 0 (R24) and REMAIN is within [1, LAT_MAX] (R32). Idle: REMAIN is 0 (R40), and either
a response is held, which is that of the last completed command (R22, R34), or the response registers are
as reset left them (R40). -/
def Coherent (s : State) : Prop :=
  if s.busy then s.rspValid = false ∧ 1 ≤ s.remain ∧ s.remain ≤ Config.latMax
  else s.remain = 0 ∧
    if s.rspValid then answers s else s.rspOp = 0 ∧ response s = ⟨0, false, 0, 0, 0⟩

/-- The machine stopped neither by a fault nor by a refusal. -/
def ran (o : Host.Outcome State Fault Refusal) : Prop := ∃ t, o = .next t

end Sys2Proof.Machine
end

