-- ==== Sys2Proof/Certificates/Slice0/Obligations.lean ====
section
/-! DEFINITION. The statements for the provers. Each docstring says which rules of spec/ it formalises. -/

namespace Sys2Proof.Machine

/-- In every state, ENCODE of the value `n` completes with status OK and the characters `text`. -/
def EncodesTo (n : Nat) (text : String) : Prop :=
  ∀ (l : Length) (c : CharWord) (s : State), ∃ t, exec (.encode (BitVec.ofNat 128 n) l c) s = .next t ∧
    t.rspStatus = 0 ∧ unpackText t.rspChars = text.toList

/-- In every state, DECODE of the length `l` and the lanes `c` completes with status `st` and value `n`. -/
def DecodesTo (l : Length) (c : CharWord) (st : StatusCode) (n : UuidValue) : Prop :=
  ∀ (v : UuidValue) (s : State), ∃ t, exec (.decode v l c) s = .next t ∧ t.rspStatus = st ∧ t.rspValue = n

/-- In every state, VALIDATE of the length `l` and the lanes `c` completes with status OK and verdict `b`. -/
def ValidatesTo (l : Length) (c : CharWord) (b : Bool) : Prop :=
  ∀ (v : UuidValue) (s : State), ∃ t, exec (.validate v l c) s = .next t ∧ t.rspStatus = 0 ∧ t.rspIsvalid = b

end Sys2Proof.Machine

open Sys2Proof Sys2Proof.Machine

/-- For every well-formed command, decoding its CMD word gives the command back, and decoding its bytes
followed by any other bytes gives the command and those other bytes. The byte layout (43 bytes, bits 7:0
first) is the model's choice, log 11. (R72, R73, R79, 30_encoding.md) -/
def Obligations.EncodedCommandDecodesBack : Prop :=
  ∀ i : Instr, i.wf = true →
    decodeCmd (encodeCmd i) = i ∧ ∀ rest : List Byte, decodeBytes (encode i ++ rest) = .ok (i, rest)

/-- For all field values, CMD[337:336] is op, CMD[335:208] is value, CMD[207:176] is len, CMD[175:0] is
chars, and CMD[175-8i:168-8i] is character lane i for every i in 0..21; and every CMD word is the
concatenation of its fields. (R72) -/
def Obligations.CommandWordHoldsTheFieldsSideBySide : Prop :=
  (∀ (op : OpCode) (v : UuidValue) (l : Length) (c : CharWord),
    (cmdWord op v l c).extractLsb' 336 2 = op ∧ (cmdWord op v l c).extractLsb' 208 128 = v ∧
    (cmdWord op v l c).extractLsb' 176 32 = l ∧ (cmdWord op v l c).extractLsb' 0 176 = c ∧
    ∀ i < 22, (cmdWord op v l c).extractLsb' (168 - 8 * i) 8 = lane8 c i) ∧
  ∀ w : CmdWord, cmdWord (opField w) (valueField w) (lenField w) (charsField w) = w

/-- For every CMD word: op 0b00 is ENCODE, 0b01 is DECODE, 0b10 is VALIDATE and 0b11 is the reserved
command, with the word's other fields as its operands, whatever they hold; and encoding that command
gives the word back. (R73) -/
def Obligations.OpFieldAloneSelectsTheOperation : Prop :=
  ∀ w : CmdWord,
    (opField w = 0b00 → decodeCmd w = .encode (valueField w) (lenField w) (charsField w)) ∧
    (opField w = 0b01 → decodeCmd w = .decode (valueField w) (lenField w) (charsField w)) ∧
    (opField w = 0b10 → decodeCmd w = .validate (valueField w) (lenField w) (charsField w)) ∧
    (opField w = 0b11 → decodeCmd w = .rsv (valueField w) (lenField w) (charsField w)) ∧
    encodeCmd (decodeCmd w) = w

/-- For every CMD word, the word and the row's mask equal the row's match for the row of the decoded
command, and for no other row. (R79, R73, 30_encoding.md, opcode_table.json) -/
def Obligations.EveryWordSelectsExactlyOneRow : Prop :=
  ∀ w : CmdWord, rowSelects (decodeCmd w).row w = true ∧
    ∀ r : OpName, rowSelects r w = true → r = (decodeCmd w).row

/-- The CMD words of V1 (ENCODE and DECODE), P2 (VALIDATE) and T-R (RSV) decode to the commands the spec
writes beside them. (R72, R73, 95_test_vectors.md) -/
def Obligations.TestVectorWordsDecode : Prop :=
  decodeCmd 0x0f4b247fd1f8745d4aa061c6fc0a8dfaf0000000000000000000000000000000000000000000000000000 =
    .encode 0xf4b247fd1f8745d4aa061c6fc0a8dfaf 0 0 ∧
  decodeCmd 0x1000000000000000000000000000000000000001658445939646d4262634d425871635276597738784a32 =
    .decode 0 22 0x58445939646d4262634d425871635276597738784a32 ∧
  decodeCmd 0x2000000000000000000000000000000000000001659635666786b5162364a527a716b356b4632744e4c76 =
    .validate 0 22 0x59635666786b5162364a527a716b356b4632744e4c76 ∧
  decodeCmd 0x3ffffffffffffffffffffffffffffffff0000001659635666786b5162364a527a716b356b4632744e4c76 =
    .rsv 0xffffffffffffffffffffffffffffffff 22 0x59635666786b5162364a527a716b356b4632744e4c76

/-- ROM_ALPHA holds, in order, the ASCII codes of
123456789ABCDEFGHJKLMNPQRSTUVWXYZabcdefghijkmnopqrstuvwxyz: 58 codes, the code of each symbol at its
digit. (R100) -/
def Obligations.AlphabetIsTheOrderedSequence : Prop :=
  romAlpha.map (fun c => Char.ofNat c.toNat) =
    "123456789ABCDEFGHJKLMNPQRSTUVWXYZabcdefghijkmnopqrstuvwxyz".toList ∧ romAlpha.length = 58

/-- For every digit d below 58, SYM(d) is a code whose DIG is {1, d}; for every member code c,
SYM(DIG(c).digit) = c; for every other code DIG is {0, 0}; MEMBER(c) is DIG(c).member for every code;
for d in 58..63 SYM has no value. (R102, R104, R105, R52, 40_alphabet.md) -/
def Obligations.SymAndDigAreInverse : Prop :=
  (∀ d : Digit, d.toNat < 58 → ∃ c, sym d = some c ∧ dig c = ⟨true, d⟩) ∧
  (∀ c : Byte, (dig c).member = true → sym (dig c).digit = some c) ∧
  (∀ c : Byte, (dig c).member = false → dig c = ⟨false, 0⟩) ∧
  (∀ c : Byte, member c = (dig c).member) ∧
  ∀ d : Digit, 58 ≤ d.toNat → sym d = none

/-- For any two digits a < b below 58, SYM(a) and SYM(b) have values and SYM(a) < SYM(b) as unsigned codes.
(R103, 40_alphabet.md) -/
def Obligations.SymbolCodesAscendWithTheirDigits : Prop :=
  ∀ a b : Digit, a < b → b.toNat < 58 → ∃ x y, sym a = some x ∧ sym b = some y ∧ x < y

/-- For each lane 0..21 MAXD(i) and MAXC(i) have values with MAXC(i) = SYM(MAXD(i)); the packed words are
those R55 writes out; and the value of MAXD's digits is 2^128 - 1. (R54, R55, R107, 20_memory.md) -/
def Obligations.MaximumStringTablesAgree : Prop :=
  (∀ i < 22, ∃ d c, maxd i = some d ∧ maxc i = some c ∧ sym d = some c) ∧
  romMaxDigits.length = 22 ∧ romMaxChars.length = 22 ∧
  packDigits romMaxDigits = 0x7e3726deb5e2151639c2b12b381cd54f5 ∧
  packChars romMaxChars = 0x59635666786b5162364a527a716b356b4632744e4c76 ∧
  contract 58 0 (romMaxDigits.map BitVec.toNat) = 2 ^ 128 - 1

/-- In every state and for all operands, ENCODE answers a next state: digit lane i is floor(n / 58^(21-i))
mod 58, character lane i is SYM of digit lane i, the status is OK, isvalid and value are 0, RSP_OP is
0b00, BUSY is 0, RSP_VALID is 1, REMAIN is 0, and every other field (the captured command, inputs,
freeTick) is unchanged. That REMAIN is 0 after a completion is the model's deduction, log 19. (R120,
R32, R33, 41_encode.md) -/
def Obligations.EncodeCompletesWithTheExpansion : Prop :=
  ∀ (n : UuidValue) (l : Length) (c : CharWord) (s : State), ∃ t, exec (.encode n l c) s = .next t ∧
    (∀ i < 22, (lane6 t.rspDigits i).toNat = n.toNat / 58 ^ (21 - i) % 58) ∧
    (∀ i < 22, sym (lane6 t.rspDigits i) = some (lane8 t.rspChars i)) ∧
    t = { s with busy := false, rspValid := true, remain := 0, rspOp := 0b00, rspStatus := 0,
                 rspIsvalid := false, rspValue := 0, rspDigits := t.rspDigits, rspChars := t.rspChars }

/-- For every value n, in every state, ENCODE answers a next state whose digit lanes are each below 58,
whose lane 0 is at most 31, and whose sum of d[i] * 58^(21-i) is n. (R123, R124, 41_encode.md) -/
def Obligations.EncodeDigitsRepresentTheValue : Prop :=
  ∀ (n : UuidValue) (l : Length) (c : CharWord) (s : State), ∃ t, exec (.encode n l c) s = .next t ∧
    (∀ i < 22, (lane6 t.rspDigits i).toNat < 58) ∧ (lane6 t.rspDigits 0).toNat ≤ 31 ∧
    ∑ i ∈ Finset.range 22, (lane6 t.rspDigits i).toNat * 58 ^ (21 - i) = n.toNat

/-- ENCODE of 0 gives 22 times '1', of 2^128 - 1 gives YcVfxkQb6JRzqk5kF2tNLv, of 57 gives
111111111111111111111z, of 58 gives 1111111111111111111121, in every state. (R125) -/
def Obligations.EncodeBoundaryResults : Prop :=
  EncodesTo 0 "1111111111111111111111" ∧ EncodesTo (2 ^ 128 - 1) "YcVfxkQb6JRzqk5kF2tNLv" ∧
  EncodesTo 57 "111111111111111111111z" ∧ EncodesTo 58 "1111111111111111111121"

/-- 58^21 and 58^22 are the numbers R122 writes, below and above 2^128; ENCODE of n, in every state, has '1'
in character lane 0 if and only if n < 58^21. (R122) -/
def Obligations.TwentyTwoPositionsAreJustEnough : Prop :=
  58 ^ 21 = 10764351351569111513009094806216900608 ∧ 58 ^ 21 = 0x819237f3896f2f30bb832ce3da00000 ∧
  58 ^ 21 < 2 ^ 128 ∧ 58 ^ 22 = 624332378391008467754527498760580235264 ∧
  58 ^ 22 = 0x1d5b20ad2d2330b10a7bb82b9f6400000 ∧ 2 ^ 128 < 58 ^ 22 ∧
  ∀ (n : UuidValue) (l : Length) (c : CharWord) (s : State), ∃ t, exec (.encode n l c) s = .next t ∧
    (lane8 t.rspChars 0 = 0x31 ↔ n.toNat < 58 ^ 21)

/-- For every value, emitting n mod 58 until n is zero, reversing and left-padding with the zero digit to
width 22 gives the digits of ENCODE; any bound of at least 22 steps is enough. (R121, 41_encode.md) -/
def Obligations.SourceLoopGivesTheSameDigits : Prop :=
  ∀ (n : UuidValue) (fuel : Nat), 22 ≤ fuel →
    (encodeDigits n).map BitVec.toNat = sourceDigits fuel n.toNat

/-- ENCODE's result does not depend on len and chars, DECODE's and VALIDATE's do not depend on value, nor on
chars when len is not 22, and the reserved command's depends on no field: each pair answers the same
next state. (R74) -/
def Obligations.DontCareFieldsHaveNoEffect : Prop :=
  ∀ (v v' : UuidValue) (l l' : Length) (c c' : CharWord) (s : State),
    (∃ t, exec (.encode v l c) s = .next t ∧ exec (.encode v l' c') s = .next t) ∧
    (∃ t, exec (.decode v l c) s = .next t ∧ exec (.decode v' l c) s = .next t) ∧
    (∃ t, exec (.validate v l c) s = .next t ∧ exec (.validate v' l c) s = .next t) ∧
    (l ≠ 22 → (∃ t, exec (.decode v l c) s = .next t ∧ exec (.decode v' l c') s = .next t) ∧
      ∃ t, exec (.validate v l c) s = .next t ∧ exec (.validate v' l c') s = .next t) ∧
    ∃ t, exec (.rsv v l c) s = .next t ∧ exec (.rsv v' l' c') s = .next t

/-- In every state and for all operands, DECODE answers a next state: ERR_LENGTH iff len is not 22;
ERR_SYMBOL iff len is 22 and some lane is no member; ERR_RANGE iff len is 22, all lanes are members and
the value is at least 2^128; OK iff len is 22, all are members and the value is below 2^128; RSP_VALUE
is the value on OK and 0 otherwise; isvalid, digits and chars are 0, RSP_OP is 0b01, BUSY 0, RSP_VALID
1, REMAIN 0; nothing else changes. That REMAIN is 0 after a completion is the model's deduction, log 19.
(R140, R143, R32, R33, 42_decode.md) -/
def Obligations.DecodeCompletesWithTheContraction : Prop :=
  ∀ (v : UuidValue) (l : Length) (c : CharWord) (s : State), ∃ t, exec (.decode v l c) s = .next t ∧
    (t.rspStatus = 1 ↔ l ≠ 22) ∧
    (t.rspStatus = 2 ↔ l = 22 ∧ ∃ i < 22, (dig (lane8 c i)).member = false) ∧
    (t.rspStatus = 3 ↔ l = 22 ∧ (∀ i < 22, (dig (lane8 c i)).member = true) ∧
      2 ^ 128 ≤ ∑ i ∈ Finset.range 22, (dig (lane8 c i)).digit.toNat * 58 ^ (21 - i)) ∧
    (t.rspStatus = 0 ↔ l = 22 ∧ (∀ i < 22, (dig (lane8 c i)).member = true) ∧
      ∑ i ∈ Finset.range 22, (dig (lane8 c i)).digit.toNat * 58 ^ (21 - i) < 2 ^ 128) ∧
    (t.rspStatus = 0 → t.rspValue.toNat =
      ∑ i ∈ Finset.range 22, (dig (lane8 c i)).digit.toNat * 58 ^ (21 - i)) ∧
    (t.rspStatus ≠ 0 → t.rspValue = 0) ∧
    t = { s with busy := false, rspValid := true, remain := 0, rspOp := 0b01, rspStatus := t.rspStatus,
                 rspIsvalid := false, rspValue := t.rspValue, rspDigits := 0, rspChars := 0 }

/-- The rows D1, D4, D5, D6, D7, D12, D15, D19, D20, D24 and D27 of table T-D: in every state DECODE of the
row's length and characters has the row's status and value. (R146, 42_decode.md, 95_test_vectors.md) -/
def Obligations.DecodeBoundaryResults : Prop :=
  DecodesTo 22 0x31313131313131313131313131313131313131313131 0 0 ∧
  DecodesTo 22 0x59635666786b5162364a527a716b356b4632744e4c76 0 0xffffffffffffffffffffffffffffffff ∧
  DecodesTo 22 0x59635666786b5162364a527a716b356b4632744e4c75 0 0xfffffffffffffffffffffffffffffffe ∧
  DecodesTo 22 0x59635666786b5162364a527a716b356b4632744e4c77 3 0 ∧
  DecodesTo 22 0x59635666786b5162364a527a716b356b4632744e4d61 3 0 ∧
  DecodesTo 22 0x7a7a7a7a7a7a7a7a7a7a7a7a7a7a7a7a7a7a7a7a7a7a 3 0 ∧
  DecodesTo 21 0x31313131313131313131313131313131313131313100 1 0 ∧
  DecodesTo 4294967295 0x31313131313131313131313131313131313131313131 1 0 ∧
  DecodesTo 22 0x30313131313131313131313131313131313131313131 2 0 ∧
  DecodesTo 22 0x7a7a7a7a7a7a7a7a7a7a7a7a7a7a7a7a7a7a7a7a7a30 2 0 ∧
  DecodesTo 22 0x31313131313131313131313131313131313131313100 2 0

/-- For all operands with len 22 and every lane a member: lane 0's digit is above 31 if and only if lane 0
is 0x5A ('Z') or within 0x61..0x7A (a lowercase letter), and then DECODE, in every state, answers
ERR_RANGE and VALIDATE answers isvalid 0. (R146, R143, R164, R160, 42_decode.md, 43_validate.md) -/
def Obligations.LeadingDigitAboveThirtyOneIsOutOfRange : Prop :=
  ∀ (v : UuidValue) (c : CharWord) (s : State), (∀ i < 22, member (lane8 c i) = true) →
    (31 < (dig (lane8 c 0)).digit.toNat ↔
      lane8 c 0 = 0x5A ∨ (0x61 ≤ (lane8 c 0).toNat ∧ (lane8 c 0).toNat ≤ 0x7A)) ∧
    (lane8 c 0 = 0x5A ∨ (0x61 ≤ (lane8 c 0).toNat ∧ (lane8 c 0).toNat ≤ 0x7A) →
      (∃ t, exec (.decode v 22 c) s = .next t ∧ t.rspStatus = 3) ∧
      ∃ u, exec (.validate v 22 c) s = .next u ∧ u.rspIsvalid = false)

/-- For every length and every 22 character lanes, DECODE computed with a 128-bit accumulator that wraps and
a sticky bit set at each overflow has the response of the exact contraction. (R144, 42_decode.md) -/
def Obligations.StickyAccumulatorGivesTheSameResponse : Prop :=
  ∀ (l : Length) (c : CharWord), decodeSticky l c = decodeF l c

/-- In every state and for all operands, VALIDATE answers a next state: RSP_ISVALID is 1 iff len is 22,
every lane is a member, and either all digits equal MAX's or the first differing digit is below MAX's;
status OK, value, digits and chars 0, RSP_OP 0b10, BUSY 0, RSP_VALID 1, REMAIN 0; nothing else changes.
That REMAIN is 0 after a completion is the model's deduction, log 19. (R160, R32, R33, 43_validate.md) -/
def Obligations.ValidateCompletesWithTheVerdict : Prop :=
  ∀ (v : UuidValue) (l : Length) (c : CharWord) (s : State), ∃ t, exec (.validate v l c) s = .next t ∧
    (t.rspIsvalid = true ↔ l = 22 ∧ (∀ i < 22, member (lane8 c i) = true) ∧
      ((∀ i < 22, maxd i = some (dig (lane8 c i)).digit) ∨
        ∃ j < 22, (∀ i < j, maxd i = some (dig (lane8 c i)).digit) ∧
          ∃ m, maxd j = some m ∧ (dig (lane8 c j)).digit < m)) ∧
    t = { s with busy := false, rspValid := true, remain := 0, rspOp := 0b10, rspStatus := 0,
                 rspIsvalid := t.rspIsvalid, rspValue := 0, rspDigits := 0, rspChars := 0 }

/-- The rows D1, D4, D6, D7, D8, D9, D10, D11, D15, D19 and D21 of table T-D: in every state VALIDATE of the
row's length and characters has status OK and the row's verdict. (R164, 43_validate.md,
95_test_vectors.md) -/
def Obligations.ValidateBoundaryResults : Prop :=
  ValidatesTo 22 0x31313131313131313131313131313131313131313131 true ∧
  ValidatesTo 22 0x59635666786b5162364a527a716b356b4632744e4c76 true ∧
  ValidatesTo 22 0x59635666786b5162364a527a716b356b4632744e4c77 false ∧
  ValidatesTo 22 0x59635666786b5162364a527a716b356b4632744e4d61 false ∧
  ValidatesTo 22 0x59635666786b5162364a527a716b356b4632744e4b7a true ∧
  ValidatesTo 22 0x59625a5a5a5a5a5a5a5a5a5a5a5a5a5a5a5a5a5a5a5a true ∧
  ValidatesTo 22 0x59643131313131313131313131313131313131313131 false ∧
  ValidatesTo 22 0x5a313131313131313131313131313131313131313131 false ∧
  ValidatesTo 21 0x31313131313131313131313131313131313131313100 false ∧
  ValidatesTo 4294967295 0x31313131313131313131313131313131313131313131 false ∧
  ValidatesTo 22 0x3131313131313131313131313131313131313131314f false

/-- For every length and every 22 character lanes, in any two states, VALIDATE and DECODE both answer a next
state, and RSP_ISVALID of the one is 1 if and only if RSP_STATUS of the other is OK. (R163, R160, R143,
43_validate.md) -/
def Obligations.ValidateAcceptsExactlyWhatDecodeAccepts : Prop :=
  ∀ (v v' : UuidValue) (l : Length) (c : CharWord) (s s' : State), ∃ t u,
    exec (.validate v l c) s = .next t ∧ exec (.decode v' l c) s' = .next u ∧
    (t.rspIsvalid = true ↔ u.rspStatus = 0)

/-- For every length and every 22 character lanes, the verdict with step (c) on the raw codes equals the
verdict with step (c) on the digits. (R162, R103, 43_validate.md) -/
def Obligations.CodeComparisonGivesTheSameVerdict : Prop :=
  ∀ (l : Length) (c : CharWord), verdictByCodes l c = verdict l c

/-- For every length, if some lane is 0x30, 0x4F, 0x49, 0x6C or at least 0x80, then in every state VALIDATE
answers isvalid 0 and DECODE answers ERR_LENGTH or ERR_SYMBOL. (R106, R161, 40_alphabet.md) -/
def Obligations.ExcludedCharactersAreRejectedAtAnyLength : Prop :=
  ∀ (v : UuidValue) (l : Length) (c : CharWord) (s : State) (i : Nat), i < 22 →
    (lane8 c i ∈ [0x30#8, 0x4F#8, 0x49#8, 0x6C#8] ∨ 0x80 ≤ (lane8 c i).toNat) →
    (∃ t, exec (.validate v l c) s = .next t ∧ t.rspIsvalid = false) ∧
    ∃ u, exec (.decode v l c) s = .next u ∧ (u.rspStatus = 1 ∨ u.rspStatus = 2)

/-- For every length and every 22 character lanes, in every state, DECODE answers a next state whose status
is neither ERR_LENGTH nor ERR_SYMBOL if and only if the length is 22 and every lane is a member. (R165,
R161, 43_validate.md) -/
def Obligations.FormatCheckIsDecodeWithoutTheRangeTest : Prop :=
  ∀ (v : UuidValue) (l : Length) (c : CharWord) (s : State), ∃ t, exec (.decode v l c) s = .next t ∧
    (formatOk l c = true ↔ t.rspStatus ≠ 1 ∧ t.rspStatus ≠ 2) ∧
    (formatOk l c = true ↔ l = 22 ∧ ∀ i < 22, member (lane8 c i) = true)

/-- In every state and for all fields, the reserved command answers the next state with RSP_OP 0b11, status
4, isvalid, value, digits and chars 0, BUSY 0, RSP_VALID 1, REMAIN 0 and every other field unchanged;
and an idle block accepts op 0b11 like any other, with a LAT_RSV latency. That REMAIN is 0 after a
completion is the model's deduction, log 19. What the latency is drawn from is the model's choice, log 4
and log 6. (R205, R236, R32, R33, 60_exceptions.md) -/
def Obligations.ReservedOpCompletesWithErrOpcode : Prop :=
  (∀ (v : UuidValue) (l : Length) (c : CharWord) (s : State), exec (.rsv v l c) s =
    .next { s with busy := false, rspValid := true, remain := 0, rspOp := 0b11, rspStatus := 4,
                   rspIsvalid := false, rspValue := 0, rspDigits := 0, rspChars := 0 }) ∧
  ∀ (s : State) (p : Ports), sampleOf s.inputs = .binary p → p.rst = false → s.busy = false →
    p.cmdValid = true → p.cmdOp = 0b11 → ∃ t, step s = .next t ∧ t.busy = true ∧
      decodeCmd (captured t) = .rsv p.cmdValue p.cmdLen p.cmdChars ∧
      ∃ z : Config.Seed, z.tick = s.freeTick ∧ z.cmd = portWord p ∧ t.remain = Config.latRsv z

/-- For every value n, in any states, ENCODE of n answers a next state, DECODE of its characters with len 22
answers status OK and value n, and VALIDATE of them answers isvalid 1. (R147, R126, 42_decode.md) -/
def Obligations.DecodeInvertsEncode : Prop :=
  ∀ (n v : UuidValue) (l : Length) (c : CharWord) (s s' : State), ∃ t u w,
    exec (.encode n l c) s = .next t ∧
    exec (.decode v 22 t.rspChars) s' = .next u ∧ u.rspStatus = 0 ∧ u.rspValue = n ∧
    exec (.validate v 22 t.rspChars) s' = .next w ∧ w.rspIsvalid = true

/-- For every 22 character lanes that DECODE, with any value and in any state, decodes with status OK,
ENCODE of the decoded value, in any state, answers those same characters. (R147, 42_decode.md) -/
def Obligations.EncodeInvertsDecode : Prop :=
  ∀ (v : UuidValue) (c : CharWord) (s : State), ∃ t, exec (.decode v 22 c) s = .next t ∧
    (t.rspStatus = 0 → ∀ (l : Length) (c' : CharWord) (s' : State), ∃ u,
      exec (.encode t.rspValue l c') s' = .next u ∧ u.rspChars = c)

/-- Two values with the same ENCODE characters are equal, and VALIDATE accepts 22 character lanes if and
only if they are the ENCODE characters of some value. (R126, 41_encode.md) -/
def Obligations.EncodeImageIsTheAcceptedStrings : Prop :=
  (∀ (n m : UuidValue) (l : Length) (c : CharWord) (s : State), ∃ t u,
    exec (.encode n l c) s = .next t ∧ exec (.encode m l c) s = .next u ∧
    (t.rspChars = u.rspChars → n = m)) ∧
  ∀ (v : UuidValue) (c : CharWord) (s : State), ∃ t, exec (.validate v 22 c) s = .next t ∧
    (t.rspIsvalid = true ↔ ∃ n : UuidValue, ∃ u, exec (.encode n 0 0) s = .next u ∧ u.rspChars = c)

/-- Every command, in every state, answers a next state with status at most 4: ENCODE and VALIDATE write
only OK, DECODE only OK, ERR_LENGTH, ERR_SYMBOL or ERR_RANGE, the reserved command only ERR_OPCODE.
(R26, R200, R202, 60_exceptions.md) -/
def Obligations.CompletionWritesOnlyTheStatusesOfItsOperation : Prop :=
  ∀ (i : Instr) (s : State), ∃ t, exec i s = .next t ∧ t.rspStatus.toNat ≤ 4 ∧
    (i.row = .encode → t.rspStatus = 0) ∧ (i.row = .decode → t.rspStatus.toNat ≤ 3) ∧
    (i.row = .validate → t.rspStatus = 0) ∧ (i.row = .rsv → t.rspStatus = 4)

/-- Every command, in every state, answers a next state in which a status other than OK comes with all data
0, and in which a data register that is not the operation's own is 0. (R201, R33, 60_exceptions.md) -/
def Obligations.ErrorResponsesCarryNoData : Prop :=
  ∀ (i : Instr) (s : State), ∃ t, exec i s = .next t ∧
    (t.rspStatus ≠ 0 → response t = ⟨t.rspStatus, false, 0, 0, 0⟩) ∧
    (i.row ≠ .validate → t.rspIsvalid = false) ∧ (i.row ≠ .decode → t.rspValue = 0) ∧
    (i.row ≠ .encode → t.rspDigits = 0 ∧ t.rspChars = 0)

/-- In any two states the same command answers next states with the same response registers, RSP_OP among
them. (R34) -/
def Obligations.ResponseIsAFunctionOfTheCommand : Prop :=
  ∀ (i : Instr) (s s' : State), ∃ t u, exec i s = .next t ∧ exec i s' = .next u ∧
    response t = response u ∧ t.rspOp = i.op ∧ u.rspOp = i.op

/-- For every op code, response and state, completing faults by name if the status is 5, 6 or 7 and
otherwise answers the state with the response written; SYM from 58 on has no value; and no command
faults in any state. (R216, R200, R33, 60_exceptions.md) -/
def Obligations.UnusedStatusCodesFault : Prop :=
  (∀ (op : OpCode) (r : Response) (s : State),
    (4 < r.status.toNat → complete op r s = .fault .statusCodeUnreachable) ∧
    (r.status.toNat ≤ 4 → ∃ t, complete op r s = .next t ∧ t.rspOp = op ∧ response t = r)) ∧
  (∀ d : Digit, 58 ≤ d.toNat → sym d = none) ∧
  ∀ (i : Instr) (s : State), ∃ t, exec i s = .next t

/-- If the ports are binary with rst 0, BUSY is 1 and REMAIN is 1, the step is exec of the command that the
captured registers hold, in the state with this edge's sample taken; for ENCODE, DECODE, VALIDATE and
RSV alike, and whatever the command ports hold. (R238, R239, R235, 70_reset_and_hazards.md) -/
def Obligations.CompletionEdgeExecutesTheCapturedCommand : Prop :=
  ∀ (s : State) (p : Ports), sampleOf s.inputs = .binary p → p.rst = false → s.busy = true →
    s.remain = 1 →
    step s = exec (decodeCmd (cmdWord s.cmdOpL s.cmdValueL s.cmdLenL s.cmdCharsL)) (taken s)

/-- In every state, for every word whose table form decodes to a command, the step after placing the word is
exec of that command in the placed state. How a word is placed is the model's choice, log 2 and log 11.
(R72, R238, 30_encoding.md) -/
def Obligations.PlacedCommandRunsAtTheNextStep : Prop :=
  ∀ (s : State) (nbits w : Nat) (i : Instr), decodeTableWord nbits w = some i →
    step (s.withFetchWord nbits w) = exec i (taken (s.withFetchWord nbits w))

/-- From every state, busy or not, and whatever cmd_valid is, a step with rst 1 answers the state with BUSY,
RSP_VALID, RSP_OP, RSP_STATUS, RSP_ISVALID, RSP_VALUE, RSP_DIGITS, RSP_CHARS and REMAIN 0 and the sample
taken; the captured command registers are unspecified. That the sample is taken off inputs and that
freeTick may move is the model's choice, log 1 and log 4. (R40, R230, 10_state.md,
70_reset_and_hazards.md) -/
def Obligations.ResetEdgeClearsEveryVisibleRegister : Prop :=
  ∀ (s : State) (p : Ports), sampleOf s.inputs = .binary p → p.rst = true → ∃ t, step s = .next t ∧
    t = { s with busy := false, rspValid := false, rspOp := 0, rspStatus := 0, rspIsvalid := false,
                 rspValue := 0, rspDigits := 0, rspChars := 0, remain := 0, inputs := s.inputs.tail,
                 cmdOpL := t.cmdOpL, cmdValueL := t.cmdValueL, cmdLenL := t.cmdLenL,
                 cmdCharsL := t.cmdCharsL, freeTick := t.freeTick }

/-- For every power-up draw and all later inputs, one step with rst 1 answers a coherent state that is idle,
holds no response, and shows 0 on every data output and cmd_ready 1. (R231, R232, R233,
70_reset_and_hazards.md) -/
def Obligations.OneResetEdgeAfterPowerUpIsEnough : Prop :=
  ∀ (k : Nat) (p : Ports) (rest : List PortSample), p.rst = true →
    ∃ t, step (powerUp k (.binary p :: rest)) = .next t ∧ Coherent t ∧
      outputs t = ⟨true, false, 0, 0, false, 0, 0, 0⟩ ∧ t.inputs = rest

/-- From every idle state, a step with rst 0 and cmd_valid 1 answers a state whose captured registers are
the command ports, with BUSY 1, RSP_VALID 0 and 1 <= REMAIN <= LAT_MAX, REMAIN being the draw of
LAT_ENC, LAT_DEC, LAT_VAL or LAT_RSV for the op; only the response registers, which are unspecified, and
freeTick may change beside these. What the latency is drawn from (freeTick, the command) is the model's
choice, log 4 and log 6, and that the sample is taken off inputs is log 1. (R236, R9, R32,
70_reset_and_hazards.md) -/
def Obligations.AcceptEdgeCapturesTheCommand : Prop :=
  ∀ (s : State) (p : Ports), sampleOf s.inputs = .binary p → p.rst = false → s.busy = false →
    p.cmdValid = true → ∃ t, step s = .next t ∧ 1 ≤ t.remain ∧ t.remain ≤ Config.latMax ∧
    (p.cmdOp = 0b00 → ∃ z : Config.Seed, z.tick = s.freeTick ∧ z.cmd = portWord p ∧ t.remain = Config.latEnc z) ∧
    (p.cmdOp = 0b01 → ∃ z : Config.Seed, z.tick = s.freeTick ∧ z.cmd = portWord p ∧ t.remain = Config.latDec z) ∧
    (p.cmdOp = 0b10 → ∃ z : Config.Seed, z.tick = s.freeTick ∧ z.cmd = portWord p ∧ t.remain = Config.latVal z) ∧
    (p.cmdOp = 0b11 → ∃ z : Config.Seed, z.tick = s.freeTick ∧ z.cmd = portWord p ∧ t.remain = Config.latRsv z) ∧
    t = { t with busy := true, rspValid := false, inputs := s.inputs.tail, cmdOpL := p.cmdOp,
                 cmdValueL := p.cmdValue, cmdLenL := p.cmdLen, cmdCharsL := p.cmdChars }

/-- From every busy state with REMAIN other than 1, a step with rst 0 answers a state with REMAIN one less,
still busy, with RSP_VALID and the captured registers unchanged; the response registers are unspecified.
With REMAIN 0, which no state after a reset edge has, REMAIN stays 0: log 8. (R235, R32, R23,
70_reset_and_hazards.md) -/
def Obligations.BusyEdgeCountsDown : Prop :=
  ∀ (s : State) (p : Ports), sampleOf s.inputs = .binary p → p.rst = false → s.busy = true →
    s.remain ≠ 1 → ∃ t, step s = .next t ∧
    t = { t with busy := true, rspValid := s.rspValid, remain := s.remain - 1, inputs := s.inputs.tail,
                 cmdOpL := s.cmdOpL, cmdValueL := s.cmdValueL, cmdLenL := s.cmdLenL,
                 cmdCharsL := s.cmdCharsL }

/-- From every idle state, k steps whose samples have rst 0 and cmd_valid 0 answer the same state with k
samples taken, for every k; so a held response stays unchanged. (R241) -/
def Obligations.IdleEdgeChangesNoRegister : Prop :=
  ∀ (ps : List Ports) (rest : List PortSample) (s : State), (∀ p ∈ ps, p.rst = false ∧ p.cmdValid = false) →
    s.busy = false → s.inputs = ps.map .binary ++ rest →
    Sys2Proof.core.run ps.length s = .next { s with inputs := rest }

/-- From every busy state, two samples with rst 0 that differ in cmd_valid, cmd_op, cmd_value, cmd_len and
cmd_chars lead to the same next state, and a state that is still busy holds the same command as before;
cmd_ready is 0. That the unspecified busy outputs of R35 are equal too in the two next states is not
R237's: both draw them from the same seed, the model's choice, log 4. (R237, R239, R35,
70_reset_and_hazards.md, 10_state.md) -/
def Obligations.BusyBlockIgnoresTheCommandPorts : Prop :=
  ∀ (s : State) (p q : Ports) (rest : List PortSample), p.rst = false → q.rst = false → s.busy = true →
    (outputs s).cmdReady = false ∧
    ∃ t, step { s with inputs := .binary p :: rest } = .next t ∧
      step { s with inputs := .binary q :: rest } = .next t ∧ captured t = captured s

/-- For every step with binary ports: at reset both become 0; at accept BUSY becomes 1 and RSP_VALID 0; at
completion BUSY becomes 0 and RSP_VALID 1; at every other edge both keep their values; and in every
state cmd_ready is the complement of BUSY. (R23, R24) -/
def Obligations.BusyAndRspValidChangeOnlyAtTheirEdges : Prop :=
  ∀ (s : State) (p : Ports), sampleOf s.inputs = .binary p →
    (outputs s).cmdReady = !s.busy ∧ ∃ t, step s = .next t ∧
    (t.busy, t.rspValid) =
      if p.rst then (false, false)
      else if !s.busy && p.cmdValid then (true, false)
      else if s.busy && s.remain == 1 then (false, true)
      else (s.busy, s.rspValid)

/-- From every state, a step whose sample is binary answers a next state, one whose sample has X or Z is
refused, and one with two drivers is refused; no step faults. X and Z are R216 and U8, two drivers are
R190 and U9; that such a sample is refused whole at every edge is the model's choice, log 9. (R216,
R190, R202, R235, 60_exceptions.md, 93_implementation_defined.md) -/
def Obligations.StepStopsOnlyOnPortsOutsideTheSpec : Prop :=
  ∀ s : State, (∀ p, sampleOf s.inputs = .binary p → ∃ t, step s = .next t) ∧
    (sampleOf s.inputs = .notBinary → step s = .refused .portNotBinary) ∧
    (sampleOf s.inputs = .contended → step s = .refused .commandPortsContended) ∧
    ∀ e, step s ≠ .fault e

/-- Coherent says: while BUSY, RSP_VALID is 0 and REMAIN is within [1, LAT_MAX]; while idle, REMAIN is 0 and
either RSP_VALID is 1 and RSP_OP and the response registers are those of the captured command, or
RSP_VALID is 0 and all of them are 0. From every coherent state, every next state is coherent, and there
is one whenever the ports are binary. That REMAIN is 0 while idle after a completion is the model's
deduction, log 19. (R22, R24, R25, R32, R33, R34, R40, 10_state.md) -/
def Obligations.EveryStepKeepsCoherence : Prop :=
  (∀ s t : State, Coherent s → step s = .next t → Coherent t) ∧
  ∀ (s : State) (p : Ports), Coherent s → sampleOf s.inputs = .binary p →
    ∃ t, step s = .next t ∧ Coherent t

/-- State.reset is coherent, idle, with RSP_VALID 0, REMAIN 0 and every response register 0. Its captured
command registers, inputs and freeTick are the model's choice (log 3, log 1, log 4) and are not stated.
(R40, 10_state.md) -/
def Obligations.ResetStateIsCoherent : Prop :=
  Coherent State.reset ∧ outputs State.reset = ⟨true, false, 0, 0, false, 0, 0, 0⟩ ∧
  State.reset.remain = 0

/-- From every idle state whose next sample presents a command p with rst 0, followed by at least LAT_MAX
samples without reset, whatever else they hold: there is an L within [1, LAT_MAX] such that after 1 to L
steps the block is busy with RSP_VALID 0, and after L + 1 steps it is idle with RSP_VALID 1, RSP_OP is
p's op and the response registers are the response of the command p carried. (R238, R239, R34, R202,
70_reset_and_hazards.md) -/
def Obligations.AcceptedCommandIsAnsweredWithinLatMax : Prop :=
  ∀ (s : State) (p : Ports) (ps : List Ports) (rest : List PortSample), s.busy = false →
    p.rst = false → p.cmdValid = true → (∀ q ∈ ps, q.rst = false) → Config.latMax ≤ ps.length →
    s.inputs = .binary p :: (ps.map .binary ++ rest) →
    ∃ L, 1 ≤ L ∧ L ≤ Config.latMax ∧
      (∀ k, 1 ≤ k → k ≤ L → ∃ u : State, Sys2Proof.core.run k s = .next u ∧ u.busy = true ∧
        u.rspValid = false) ∧
      ∃ t : State, Sys2Proof.core.run (L + 1) s = .next t ∧ t.busy = false ∧ t.rspValid = true ∧
        t.rspOp = p.cmdOp ∧
        respond (decodeCmd (cmdWord p.cmdOp p.cmdValue p.cmdLen p.cmdChars)) = some (response t)

/-- From every state, whatever cmd_valid is at the reset edge, after a step with rst 1 followed by any
number of steps with rst 0 and cmd_valid 0, RSP_VALID, BUSY, REMAIN and every response register are 0:
no command was accepted at the reset edge, and the one in flight gets no response while no new command
is presented. (R230) -/
def Obligations.ResetAbandonsTheCommandInFlight : Prop :=
  ∀ (s : State) (p : Ports) (ps : List Ports) (rest : List PortSample), p.rst = true →
    (∀ q ∈ ps, q.rst = false ∧ q.cmdValid = false) →
    s.inputs = .binary p :: (ps.map .binary ++ rest) →
    ∃ t : State, Sys2Proof.core.run (ps.length + 1) s = .next t ∧ t.busy = false ∧ t.rspValid = false ∧
      t.remain = 0 ∧ t.rspOp = 0 ∧ response t = ⟨0, false, 0, 0, 0⟩

/-- For every 128-bit value, its rendered text has 36 characters with hyphens at positions 8, 13, 18 and 23,
and parsing it gives the value. (R181, R183, 44_host_interface.md) -/
def Obligations.ParsingInvertsRendering : Prop :=
  ∀ v : UuidValue, parseUuid (renderUuid v) = .ok v ∧ (renderUuid v).length = 36 ∧
    ∀ k ∈ [8, 13, 18, 23], (renderUuid v)[k]? = some '-'

/-- For every text: parsing reports EncodeError if and only if the hyphen-stripped text is not 32 characters
long or holds a character that is no hex digit; then ENCODE.UUID reports EncodeError and issues no
command. (R182) -/
def Obligations.EncodeErrorExactlyForMalformedText : Prop :=
  ∀ t : List Char,
    (parseUuid t = .error .encodeError ↔
      (stripHyphens t).length ≠ 32 ∨
        ∃ c ∈ stripHyphens t, c ∉ "0123456789abcdefABCDEF".toList) ∧
    (parseUuid t = .error .encodeError → hostEncode t = .error .encodeError ∧
      expandStatement (.encodeUuid t) = .error .encodeError)

/-- For every value, encode of its rendered text gives a string of 22 alphabet characters that isValid
accepts and decode turns back into the rendered text. (R184, R185, R186, R126, R147,
44_host_interface.md, 95_test_vectors.md) -/
def Obligations.TextRoundTrip : Prop :=
  ∀ v : UuidValue, ∃ s, hostEncode (renderUuid v) = .ok s ∧ s.length = 22 ∧
    (∀ ch ∈ s, ch ∈ "123456789ABCDEFGHJKLMNPQRSTUVWXYZabcdefghijkmnopqrstuvwxyz".toList) ∧
    hostIsValid s = true ∧ hostDecode s = .ok (renderUuid v)

/-- For every text, isValid is true if and only if decode gives a text, and when it gives none the error is
DecodeError. (R186, R185, R163, 44_host_interface.md, 95_test_vectors.md) -/
def Obligations.IsValidExactlyWhenDecodeSucceeds : Prop :=
  ∀ s : List Char, (hostIsValid s = true ↔ ∃ u, hostDecode s = .ok u) ∧
    (hostIsValid s = false → hostDecode s = .error .decodeError)

/-- For every text, if its length is not 22, or it holds a character outside the alphabet (0, O, I, l and
every non-ASCII character among them), isValid is false and decode reports DecodeError. (R76, R77, R106,
30_encoding.md) -/
def Obligations.TextOutsideTheAlphabetIsRejected : Prop :=
  ∀ s : List Char,
    (s.length ≠ 22 ∨ ∃ ch ∈ s, ch ∉ "123456789ABCDEFGHJKLMNPQRSTUVWXYZabcdefghijkmnopqrstuvwxyz".toList) →
    hostIsValid s = false ∧ hostDecode s = .error .decodeError

/-- For every draw r: the shaped value has 0b0100 in bits [79:76], 0b10 in bits [63:62] and r's bits
elsewhere, so the top nibble of byte 6 is 0b0100, the top two bits of byte 8 are 0b10, hex digit 12 is
'4' and hex digit 16 is 8, 9, a or b, counting from 0; generate() gives a string that isValid accepts
and that decode turns into the shaped value's text; and a failed draw is fatal. The byte order of UUID
text is PRESUMED, log 14; the failed draw as an absent argument is the model's choice, log 15. (R187,
R188, R189, R56, 44_host_interface.md, 20_memory.md) -/
def Obligations.GeneratorOutputHasTheVersion4Shape : Prop :=
  (∀ r : UuidValue,
    (shapeV4 r).extractLsb' 76 4 = 0b0100#4 ∧ (shapeV4 r).extractLsb' 62 2 = 0b10#2 ∧
    (∀ k < 128, k ∉ [62, 63, 76, 77, 78, 79] → (shapeV4 r).getLsbD k = r.getLsbD k) ∧
    (uuidByte (shapeV4 r) 6).extractLsb' 4 4 = 0b0100#4 ∧ (uuidByte (shapeV4 r) 8).extractLsb' 6 2 = 0b10#2 ∧
    (hexText (shapeV4 r))[12]? = some '4' ∧
    (∃ ch ∈ ['8', '9', 'a', 'b'], (hexText (shapeV4 r))[16]? = some ch) ∧
    ∃ s, hostGenerate (some r) = .ok s ∧ hostIsValid s = true ∧
      hostDecode s = .ok (renderUuid (shapeV4 r))) ∧
  hostGenerate none = .error .entropyFailure

/-- For a host whose next action is to issue a command: at every edge the ports it drives carry the command
with cmd_valid 1 and rst 0, whatever rsp_valid is; while the block is busy the edge leaves the action in
place and the block's captured command as it was; when it is idle the edge captures the command, makes
the block busy and removes the action. That the host samples cmd_ready before the edge it drives is the
model's deduction, log 18. (R82, R244, 30_encoding.md) -/
def Obligations.HostHoldsACommandUntilItIsAccepted : Prop :=
  ∀ (i : Instr) (todo : List HostAct) (a : Bool) (s : State),
    (∀ v : Bool, drive false v (.issue i :: todo) a = (portsOf i, .issue i :: todo, a) ∧
      drive true v (.issue i :: todo) a = (portsOf i, todo, true)) ∧
    ((portsOf i).cmdValid = true ∧ (portsOf i).rst = false ∧ portWord (portsOf i) = encodeCmd i) ∧
    (s.busy = true → ∃ z, systemStep ⟨.issue i :: todo, a, s⟩ = .next z ∧ z.host = .issue i :: todo ∧
      captured z.block = captured s) ∧
    (s.busy = false → ∃ z, systemStep ⟨.issue i :: todo, a, s⟩ = .next z ∧ z.host = todo ∧
      z.block.busy = true ∧ captured z.block = encodeCmd i)

/-- From every block state, power-up states among them, for every command and every latency: the host
program RESET; command; WAIT ends, at most LAT_MAX + 2 edges later, in a state that is idle, holds a
response, has the command's op in RSP_OP and the command's response in the response registers, and is
coherent. The bound rests on when WAIT ends, log 18 (deduced), and coherence on log 19 (deduced). (R248,
R82, R238, R233, 70_reset_and_hazards.md) -/
def Obligations.OneCommandProgramEndsWithItsResponse : Prop :=
  ∀ (i : Instr) (s : State), ∃ k ≤ Config.latMax + 2, ∃ z,
    systemRun k ⟨[.reset, .issue i, .wait], false, s⟩ = .next z ∧ z.ended = true ∧
    z.block.busy = false ∧ z.block.rspValid = true ∧ z.block.rspOp = i.op ∧
    respond i = some (response z.block) ∧ Coherent z.block

/-- In every state the interrupt is pending if and only if the platform routes rsp_valid and RSP_VALID is 1;
from a state with the interrupt pending, a step with binary ports that neither resets nor accepts
answers a state with it still pending, and one that resets or accepts answers a state with it not
pending. (R208, R24, 60_exceptions.md) -/
def Obligations.InterruptIsPendingUntilAcceptOrReset : Prop :=
  ∀ (s : State) (p : Ports), sampleOf s.inputs = .binary p →
    (irqPending s = true ↔ Config.irqWiring = true ∧ s.rspValid = true) ∧
    (irqPending s = true → ∃ t, step s = .next t ∧
      (irqPending t = false ↔ p.rst = true ∨ (s.busy = false ∧ p.cmdValid = true)))

/-- For every list of instances and every instance k whose own step answers a next state, the platform's
edge of instance k answers the list with that state at place k and every other place unchanged. That an
edge is one instance's own and moves no other is how the model reads R218, its choice, log 16; an
instance whose step stops is not covered. (R218, 60_exceptions.md) -/
def Obligations.InstancesDoNotTouchEachOther : Prop :=
  ∀ (ss : List State) (k : Nat) (s t : State), ss[k]? = some s → step s = .next t →
    platformStep k ss = some (.next (ss.set k t)) ∧ ∀ j ≠ k, (ss.set k t)[j]? = ss[j]?

/-- From every block state, busy or not, a program that is IDLE k has not ended after fewer than k edges and
has ended after k edges, with the block moved by k idle samples and no response awaited; IDLE 0 takes no
edge, which is the model's deduction, log 18. The two runs compared are one block under the same
samples, so their busy outputs are the same draws, the model's choice, log 4. (R82, R248, R235,
30_encoding.md, 70_reset_and_hazards.md) -/
def Obligations.IdleStatementTakesItsCycles : Prop :=
  ∀ (k : Nat) (a : Bool) (s : State),
    (∀ j < k, ∃ z, systemRun j ⟨[.idle k], a, s⟩ = .next z ∧ z.ended = false) ∧
    ∃ z, systemRun k ⟨[.idle k], a, s⟩ = .next z ∧ z.ended = true ∧
      Sys2Proof.core.run k { s with inputs := List.replicate k (.binary idlePorts) } =
        .next { z.block with inputs := [] }

/-- A well-formed command statement issues one command of its operation, with the written value, len and
chars and 0 for a field left out, no written len wrapping; an ill-formed one is rejected by name. That a
len of 2^32 or more is ill-formed is the model's choice, log 20, and so is that every operation may
carry or leave out every field, log 21. (R81, 30_encoding.md) -/
def Obligations.CommandStatementDrivesItsFieldsOrIsRejected : Prop :=
  ∀ (op : OpName) (v : Option UuidValue) (l : Option Nat) (c : Option CharsArg),
    ((Statement.command op v l c).wf = true → ∃ i, expandStatement (.command op v l c) = .ok [.issue i] ∧
      i.row = op ∧ i.value = v.getD 0 ∧ i.len.toNat = l.getD 0 ∧ i.chars = charsOf c) ∧
    ((Statement.command op v l c).wf = false →
      expandStatement (.command op v l c) = .error .notAStatement)
end

