-- ==== Sys2Proof/Laws/Radix.lean ====
section
/-! SUPPORT. `expand` and `contract` are inverse to each other, digit by digit. -/

namespace Sys2Proof.Machine

theorem expand_append (b k n : Nat) (acc : List Nat) : expand b k n acc = expand b k n [] ++ acc := by
  induction k generalizing n acc with
  | zero => simp [expand]
  | succ k ih => rw [expand, ih, expand, ih _ [n % b]]; simp

theorem expand_succ (b k n : Nat) : expand b (k + 1) n [] = expand b k (n / b) [] ++ [n % b] := by
  rw [expand, expand_append]

@[simp] theorem expand_length (b k n : Nat) : (expand b k n []).length = k := by
  induction k generalizing n with
  | zero => rfl
  | succ k ih => rw [expand_succ]; simp [ih]

theorem expand_lt {b : Nat} (hb : 0 < b) (k n : Nat) : ∀ d ∈ expand b k n [], d < b := by
  induction k generalizing n with
  | zero => simp [expand]
  | succ k ih =>
    rw [expand_succ]
    intro d hd
    rcases List.mem_append.1 hd with h | h
    · exact ih _ d h
    · simp only [List.mem_singleton] at h
      exact h ▸ Nat.mod_lt _ hb

/-- Digit `i` of the expansion, the first most significant. -/
theorem expand_getElem (b k n i : Nat) (hi : i < (expand b k n []).length) :
    (expand b k n [])[i] = n / b ^ (k - 1 - i) % b := by
  induction k generalizing n with
  | zero => simp [expand] at hi
  | succ k ih =>
    have hi' : i < k + 1 := by simpa using hi
    simp only [expand_succ]
    rw [List.getElem_append]
    split
    · rename_i h
      have hk : i < k := by simpa using h
      rw [ih, Nat.div_div_eq_div_mul, ← Nat.pow_succ']
      congr 3; omega
    · rename_i h
      have hk : ¬ i < k := by simpa using h
      have hik : k - i = 0 := by omega
      simp [hik]

theorem contract_start (b n : Nat) (ds : List Nat) :
    contract b n ds = n * b ^ ds.length + contract b 0 ds := by
  induction ds generalizing n with
  | nil => simp [contract]
  | cons d ds ih =>
    rw [contract, ih, contract, ih (0 * b + d), List.length_cons, Nat.pow_succ]
    ring

theorem contract_append (b n : Nat) (ds es : List Nat) :
    contract b n (ds ++ es) = contract b (contract b n ds) es := by
  induction ds generalizing n with
  | nil => rfl
  | cons d ds ih => exact ih _

theorem contract_concat (b : Nat) (ds : List Nat) (d : Nat) :
    contract b 0 (ds ++ [d]) = contract b 0 ds * b + d := contract_append b 0 ds [d]

theorem contract_lt {b : Nat} (ds : List Nat) (h : ∀ d ∈ ds, d < b) : contract b 0 ds < b ^ ds.length := by
  induction ds with
  | nil => simp [contract]
  | cons d ds ih =>
    have hd : d < b := h d (by simp)
    have := ih fun e he => h e (by simp [he])
    rw [contract, contract_start, List.length_cons, Nat.pow_succ']
    calc (0 * b + d) * b ^ ds.length + contract b 0 ds
        < d * b ^ ds.length + b ^ ds.length := by simpa using this
      _ = (d + 1) * b ^ ds.length := by ring
      _ ≤ b * b ^ ds.length := Nat.mul_le_mul_right _ hd

theorem contract_expand (b k n : Nat) : contract b 0 (expand b k n []) = n % b ^ k := by
  induction k generalizing n with
  | zero => simp [expand, contract, Nat.mod_one]
  | succ k ih =>
    rw [expand_succ, contract_concat, ih, Nat.pow_succ', Nat.mod_mul]
    ring

theorem expand_contract {b : Nat} (ds : List Nat) (h : ∀ d ∈ ds, d < b) :
    expand b ds.length (contract b 0 ds) [] = ds := by
  induction ds using List.reverseRecOn with
  | nil => rfl
  | append_singleton ds d ih =>
    have hd : d < b := h d (by simp)
    rw [List.length_append, List.length_singleton, expand_succ, contract_concat,
      Nat.add_comm, Nat.add_mul_div_right _ _ (by omega), Nat.div_eq_of_lt hd, Nat.zero_add,
      Nat.add_mul_mod_self_right, Nat.mod_eq_of_lt hd, ih fun e he => h e (by simp [he])]

/-- Digit `i` of a contraction. -/
theorem contract_digit {b : Nat} (ds : List Nat) (h : ∀ d ∈ ds, d < b) (i : Nat) (hi : i < ds.length) :
    contract b 0 ds / b ^ (ds.length - 1 - i) % b = ds[i] := by
  rw [← expand_getElem b ds.length _ i (by simpa using hi)]
  simp only [expand_contract ds h]

/-- The contraction as the sum of R142. -/
theorem contract_sum (b k : Nat) (f : Nat → Nat) :
    contract b 0 ((List.range k).map f) = ∑ i ∈ Finset.range k, f i * b ^ (k - 1 - i) := by
  induction k with
  | zero => rfl
  | succ k ih =>
    rw [List.range_succ, List.map_append, List.map_singleton, contract_concat, ih,
      Finset.sum_range_succ, Finset.sum_mul]
    congr 1
    · refine Finset.sum_congr rfl fun i hi => ?_
      have : i < k := Finset.mem_range.1 hi
      rw [Nat.mul_assoc, ← Nat.pow_succ]
      congr 2; omega
    · simp

end Sys2Proof.Machine
end

