-- ==== Sys2Proof/Laws/Tables.lean ====
section
/-! SUPPORT. The constant tables: SYM and DIG are inverse, MEMBER is DIG's member bit, the codes ascend. -/

namespace Sys2Proof.Machine

theorem sym_spec : ∀ d : Digit,
    if d.toNat < 58 then (sym d).map dig = some ⟨true, d⟩ else sym d = none := by decide +kernel

theorem dig_spec : ∀ c : Byte,
    if member c then (dig c).member = true ∧ (dig c).digit.toNat < 58 ∧ sym (dig c).digit = some c
    else dig c = ⟨false, 0⟩ := by decide +kernel

theorem sym_of_lt {d : Digit} (h : d.toNat < 58) : ∃ c, sym d = some c ∧ dig c = ⟨true, d⟩ := by
  have := sym_spec d
  rw [if_pos h] at this
  cases hs : sym d with
  | none => simp [hs] at this
  | some c => exact ⟨c, rfl, by simpa [hs] using this⟩

theorem sym_of_ge {d : Digit} (h : 58 ≤ d.toNat) : sym d = none := by
  have := sym_spec d
  rwa [if_neg (by omega)] at this

theorem member_eq (c : Byte) : member c = (dig c).member := by
  have := dig_spec c
  split at this
  · rename_i h; rw [h, this.1]
  · rename_i h; rw [this]; simpa using h

theorem sym_dig {c : Byte} (h : (dig c).member = true) : sym (dig c).digit = some c := by
  have := dig_spec c
  rw [if_pos (by rw [member_eq]; exact h)] at this
  exact this.2.2

theorem dig_lt (c : Byte) : (dig c).digit.toNat < 58 := by
  have := dig_spec c
  split at this
  · exact this.2.1
  · rw [this]; decide

theorem dig_of_not_member {c : Byte} (h : member c = false) : dig c = ⟨false, 0⟩ := by
  have := dig_spec c
  rwa [if_neg (by simp [h])] at this

/-- On each of the six ranges the digit is the code less the range's offset (R104). -/
theorem dig_offset : ∀ c : Byte, member c = true →
    (c.toNat ≤ 0x39 ∧ c.toNat = (dig c).digit.toNat + 0x31) ∨
    (0x41 ≤ c.toNat ∧ c.toNat ≤ 0x48 ∧ c.toNat = (dig c).digit.toNat + 0x38) ∨
    (0x4A ≤ c.toNat ∧ c.toNat ≤ 0x4E ∧ c.toNat = (dig c).digit.toNat + 0x39) ∨
    (0x50 ≤ c.toNat ∧ c.toNat ≤ 0x5A ∧ c.toNat = (dig c).digit.toNat + 0x3A) ∨
    (0x61 ≤ c.toNat ∧ c.toNat ≤ 0x6B ∧ c.toNat = (dig c).digit.toNat + 0x40) ∨
    (0x6D ≤ c.toNat ∧ c.toNat = (dig c).digit.toNat + 0x41) := by decide +kernel

/-- The table ascends strictly (R103), read through DIG. -/
theorem dig_lt_iff (a b : Byte) (ha : member a = true) (hb : member b = true) :
    (dig a).digit < (dig b).digit ↔ a < b := by
  rw [BitVec.lt_def, BitVec.lt_def]
  have := dig_offset a ha
  have := dig_offset b hb
  omega

end Sys2Proof.Machine
end

