-- ==== Sys2Proof/Laws/Lanes.lean ====
section
/-! SUPPORT. The lanes of a word are its base-256 or base-64 digits, so packing and unpacking are inverse. -/

namespace Sys2Proof.Machine

theorem lane8_toNat (w : CharWord) {i : Nat} (hi : i < 22) :
    (lane8 w i).toNat = w.toNat / 256 ^ (21 - i) % 256 := by
  have h : 168 - 8 * i = 8 * (21 - i) := by omega
  simp only [lane8, BitVec.extractLsb'_toNat, Nat.shiftRight_eq_div_pow, h, Nat.pow_mul, Nat.reducePow]

theorem lane6_toNat (w : DigitWord) {i : Nat} (hi : i < 22) :
    (lane6 w i).toNat = w.toNat / 64 ^ (21 - i) % 64 := by
  have h : 126 - 6 * i = 6 * (21 - i) := by omega
  simp only [lane6, BitVec.extractLsb'_toNat, Nat.shiftRight_eq_div_pow, h, Nat.pow_mul, Nat.reducePow]

@[simp] theorem lanes8_length (w : CharWord) : (lanes8 w).length = 22 := by simp [lanes8]
@[simp] theorem lanes6_length (w : DigitWord) : (lanes6 w).length = 22 := by simp [lanes6]

@[simp] theorem lanes8_getElem (w : CharWord) (i : Nat) (h : i < (lanes8 w).length) :
    (lanes8 w)[i] = lane8 w i := by simp [lanes8]
@[simp] theorem lanes6_getElem (w : DigitWord) (i : Nat) (h : i < (lanes6 w).length) :
    (lanes6 w)[i] = lane6 w i := by simp [lanes6]

theorem lanes8_toNat (w : CharWord) : (lanes8 w).map BitVec.toNat = expand 256 22 w.toNat [] := by
  refine List.ext_getElem (by simp) fun i h _ => ?_
  have hi : i < 22 := by simpa using h
  rw [expand_getElem, List.getElem_map, lanes8_getElem, lane8_toNat w hi]

theorem lanes6_toNat (w : DigitWord) : (lanes6 w).map BitVec.toNat = expand 64 22 w.toNat [] := by
  refine List.ext_getElem (by simp) fun i h _ => ?_
  have hi : i < 22 := by simpa using h
  rw [expand_getElem, List.getElem_map, lanes6_getElem, lane6_toNat w hi]

@[simp] theorem packChars_lanes8 (w : CharWord) : packChars (lanes8 w) = w := by
  rw [packChars, lanes8_toNat, contract_expand]
  exact BitVec.eq_of_toNat_eq (by simp [Nat.mod_eq_of_lt w.isLt])

@[simp] theorem packDigits_lanes6 (w : DigitWord) : packDigits (lanes6 w) = w := by
  rw [packDigits, lanes6_toNat, contract_expand]
  exact BitVec.eq_of_toNat_eq (by simp [Nat.mod_eq_of_lt w.isLt])

theorem toNat_lt_of_mem {n : Nat} (ds : List (BitVec n)) : ∀ d ∈ ds.map BitVec.toNat, d < 2 ^ n := by
  intro d hd
  obtain ⟨x, -, rfl⟩ := List.mem_map.1 hd
  exact x.isLt

theorem map_toNat_injective {n : Nat} {ds es : List (BitVec n)}
    (h : ds.map BitVec.toNat = es.map BitVec.toNat) : ds = es :=
  List.map_injective_iff.2 (fun _ _ => BitVec.eq_of_toNat_eq) h

theorem lanes8_packChars {cs : List Byte} (h : cs.length = 22) : lanes8 (packChars cs) = cs := by
  apply map_toNat_injective
  have hlt := contract_lt (cs.map BitVec.toNat) (toNat_lt_of_mem cs)
  have hmod : (packChars cs).toNat = contract 256 0 (cs.map BitVec.toNat) := by
    rw [packChars, BitVec.toNat_ofNat]
    exact Nat.mod_eq_of_lt (by simpa [h] using hlt)
  rw [lanes8_toNat, hmod]
  simpa [h] using expand_contract (cs.map BitVec.toNat) (toNat_lt_of_mem cs)

theorem lanes6_packDigits {ds : List Digit} (h : ds.length = 22) : lanes6 (packDigits ds) = ds := by
  apply map_toNat_injective
  have hlt := contract_lt (ds.map BitVec.toNat) (toNat_lt_of_mem ds)
  have hmod : (packDigits ds).toNat = contract 64 0 (ds.map BitVec.toNat) := by
    rw [packDigits, BitVec.toNat_ofNat]
    exact Nat.mod_eq_of_lt (by simpa [h] using hlt)
  rw [lanes6_toNat, hmod]
  simpa [h] using expand_contract (ds.map BitVec.toNat) (toNat_lt_of_mem ds)

theorem lane8_packChars {cs : List Byte} (h : cs.length = 22) {i : Nat} (hi : i < 22) :
    lane8 (packChars cs) i = cs[i]'(h ▸ hi) := by
  have := lanes8_getElem (packChars cs) i (by simpa using hi)
  simp only [lanes8_packChars h] at this
  exact this.symm

theorem lane6_packDigits {ds : List Digit} (h : ds.length = 22) {i : Nat} (hi : i < 22) :
    lane6 (packDigits ds) i = ds[i]'(h ▸ hi) := by
  have := lanes6_getElem (packDigits ds) i (by simpa using hi)
  simp only [lanes6_packDigits h] at this
  exact this.symm

theorem mem_lanes8 {w : CharWord} {c : Byte} : c ∈ lanes8 w ↔ ∃ i < 22, lane8 w i = c := by
  simp [lanes8]

theorem allMembers_iff (w : CharWord) : (lanes8 w).all member = true ↔ ∀ i < 22, member (lane8 w i) = true := by
  simp [lanes8]

/-! The lookups over a list. -/

theorem symbols_map_dig (cs : List Byte) (h : cs.all member = true) :
    symbols (cs.map fun c => (dig c).digit) = some cs := by
  induction cs with
  | nil => rfl
  | cons c cs ih =>
    simp only [List.all_cons, Bool.and_eq_true] at h
    simp only [List.map_cons, symbols, ih h.2, sym_dig (member_eq c ▸ h.1)]

theorem symbols_some (ds : List Digit) (h : ∀ d ∈ ds, d.toNat < 58) :
    ∃ cs, symbols ds = some cs ∧ cs.length = ds.length ∧ cs.all member = true ∧
      cs.map (fun c => (dig c).digit) = ds := by
  induction ds with
  | nil => exact ⟨[], rfl, rfl, rfl, rfl⟩
  | cons d ds ih =>
    obtain ⟨cs, h1, h2, h3, h4⟩ := ih fun e he => h e (by simp [he])
    obtain ⟨c, hc, hd⟩ := sym_of_lt (h d (by simp))
    exact ⟨c :: cs, by simp [symbols, hc, h1], by simp [h2], by simp [h3, member_eq, hd], by simp [h4, hd]⟩

theorem symbols_getElem {ds : List Digit} {cs : List Byte} (h : symbols ds = some cs) :
    ∃ hl : cs.length = ds.length, ∀ i (hi : i < ds.length), sym ds[i] = some (cs[i]'(hl ▸ hi)) := by
  induction ds generalizing cs with
  | nil => obtain rfl : [] = cs := by simpa [symbols] using h
           exact ⟨rfl, fun i hi => absurd hi (Nat.not_lt_zero i)⟩
  | cons d ds ih =>
    simp only [symbols] at h
    split at h
    · rename_i c cs' hc hcs
      obtain rfl : c :: cs' = cs := by simpa using h
      obtain ⟨hl, hg⟩ := ih hcs
      refine ⟨by simp [hl], fun i hi => ?_⟩
      cases i with
      | zero => exact hc
      | succ i => exact hg i (by simpa using hi)
    · simp at h

theorem digits_eq (cs : List Byte) :
    digits cs = if cs.all member then some (cs.map fun c => (dig c).digit) else none := by
  induction cs with
  | nil => rfl
  | cons c cs ih =>
    rw [digits, ih, ← member_eq]
    cases hc : member c <;> cases hcs : cs.all member <;> simp only [List.all_cons, hc, hcs] <;> rfl

end Sys2Proof.Machine
end

