-- ==== Sys2Proof/Laws/Codec.lean ====
section
/-! SUPPORT. One lemma for each of the pure functions EncodeF, DecodeF and ValidateF, saying what it computes. -/

namespace Sys2Proof.Machine

/-! ENCODE -/

@[simp] theorem encodeDigits_length (v : UuidValue) : (encodeDigits v).length = 22 := by simp [encodeDigits]

theorem encodeDigits_toNat (v : UuidValue) : (encodeDigits v).map BitVec.toNat = expand 58 22 v.toNat [] := by
  rw [encodeDigits, List.map_map]
  refine (List.map_congr_left fun d hd => ?_).trans (List.map_id _)
  have : d < 58 := expand_lt (by decide) _ _ d hd
  simp only [Function.comp, BitVec.toNat_ofNat, id]
  omega

theorem encodeDigits_getElem (v : UuidValue) (i : Nat) (hi : i < (encodeDigits v).length) :
    ((encodeDigits v)[i]).toNat = v.toNat / 58 ^ (21 - i) % 58 := by
  have h := expand_getElem 58 22 v.toNat i (by simpa using hi)
  rw [← h]
  simp only [← encodeDigits_toNat, List.getElem_map]

theorem encodeDigits_lt (v : UuidValue) : ∀ d ∈ encodeDigits v, d.toNat < 58 := by
  intro d hd
  have : d.toNat ∈ (encodeDigits v).map BitVec.toNat := List.mem_map_of_mem hd
  rw [encodeDigits_toNat] at this
  exact expand_lt (by decide) _ _ _ this

theorem contract_encodeDigits (v : UuidValue) :
    contract 58 0 ((encodeDigits v).map BitVec.toNat) = v.toNat := by
  rw [encodeDigits_toNat, contract_expand]
  exact Nat.mod_eq_of_lt (lt_trans v.isLt (by norm_num))

/-- EncodeF never meets the unreachable fault, and its characters are the symbols of its digits. -/
theorem encodeF_spec (v : UuidValue) :
    ∃ cs, symbols (encodeDigits v) = some cs ∧ cs.length = 22 ∧ cs.all member = true ∧
      cs.map (fun c => (dig c).digit) = encodeDigits v ∧
      encodeF v = some ⟨0, false, 0, packDigits (encodeDigits v), packChars cs⟩ := by
  obtain ⟨cs, h1, h2, h3, h4⟩ := symbols_some _ (encodeDigits_lt v)
  exact ⟨cs, h1, by simpa using h2, h3, h4, by simp [encodeF, h1, statusCode]⟩

/-! DECODE -/

/-- The value of the lanes is the contraction of their digits. -/
theorem magnitude_eq (w : CharWord) :
    magnitude w = contract 58 0 (((lanes8 w).map fun c => (dig c).digit).map BitVec.toNat) := by
  rw [lanes8, List.map_map, List.map_map]
  exact (contract_sum 58 22 fun i => (dig (lane8 w i)).digit.toNat).symm

theorem lengthOk_iff (l : Length) : lengthOk l = true ↔ l = 22 := by simp [lengthOk]

/-- DecodeF by its four cases, in the order of R145. -/
theorem decodeF_eq (l : Length) (w : CharWord) :
    decodeF l w =
      if l ≠ 22 then bare .errLength
      else if (lanes8 w).all member = false then bare .errSymbol
      else if 2 ^ 128 ≤ magnitude w then bare .errRange
      else ⟨0, false, BitVec.ofNat 128 (magnitude w), 0, 0⟩ := by
  have hgt : ∀ n : Nat, n > 2 ^ 128 - 1 ↔ 2 ^ 128 ≤ n := by omega
  unfold decodeF
  by_cases hl : l = 22
  · cases hm : (lanes8 w).all member <;>
      simp only [lengthOk, beq_self_eq_true, digits_eq, hm, hl, hgt, magnitude_eq, if_true, ne_eq, not_true_eq_false, if_false,
        Bool.true_eq_false, Bool.false_eq_true]
    rfl
  · have hok : lengthOk l = false := by simpa [← Bool.not_eq_true, lengthOk_iff] using hl
    simp only [hok, Bool.false_eq_true, if_false, ne_eq, hl, not_false_eq_true, if_true]

/-- The value of a string built from digits. -/
theorem magnitude_packChars {cs : List Byte} (h : cs.length = 22) :
    magnitude (packChars cs) = contract 58 0 ((cs.map fun c => (dig c).digit).map BitVec.toNat) := by
  rw [magnitude_eq, lanes8_packChars h]

/-! VALIDATE -/

/-- At equal widths, the first differing digit decides which numeral is the larger. -/
theorem notAbove_iff (es ms : List Digit) (hl : es.length = ms.length) (he : ∀ d ∈ es, d.toNat < 58)
    (hm : ∀ d ∈ ms, d.toNat < 58) :
    notAbove es ms = true ↔
      contract 58 0 (es.map BitVec.toNat) ≤ contract 58 0 (ms.map BitVec.toNat) := by
  induction es generalizing ms with
  | nil =>
    obtain rfl : ms = [] := by simpa using hl.symm
    simp [notAbove]
  | cons e es ih =>
    cases ms with
    | nil => simp at hl
    | cons m ms =>
      have hl' : es.length = ms.length := by simpa using hl
      have hes := contract_lt (es.map BitVec.toNat) (b := 58) (by simpa using fun d hd => he d (by simp [hd]))
      have hms := contract_lt (ms.map BitVec.toNat) (b := 58) (by simpa using fun d hd => hm d (by simp [hd]))
      rw [List.length_map] at hes hms
      rw [← hl'] at hms
      have ih' := ih ms hl' (fun d hd => he d (by simp [hd])) fun d hd => hm d (by simp [hd])
      simp only [List.map_cons, contract, Nat.zero_mul, Nat.zero_add]
      rw [contract_start 58 e.toNat, contract_start 58 m.toNat, List.length_map, List.length_map, ← hl']
      rw [notAbove]
      generalize contract 58 0 (es.map BitVec.toNat) = a at *
      generalize contract 58 0 (ms.map BitVec.toNat) = b at *
      generalize 58 ^ es.length = p at *
      split
      · rename_i h
        have : m.toNat + 1 ≤ e.toNat := h
        have := Nat.mul_le_mul_right p this
        simp only [Bool.false_eq_true, false_iff, not_le]
        nlinarith
      · split
        · rename_i h
          have : e.toNat + 1 ≤ m.toNat := h
          have := Nat.mul_le_mul_right p this
          simp only [true_iff]
          nlinarith
        · rename_i h1 h2
          have : e.toNat = m.toNat := le_antisymm (Nat.not_lt.1 h1) (Nat.not_lt.1 h2)
          rw [this, ih']
          omega

/-- MAX is 2^128 − 1 (R55). -/
theorem contract_max : contract 58 0 (romMaxDigits.map BitVec.toNat) = 2 ^ 128 - 1 := by decide

end Sys2Proof.Machine
end

