-- ==== Sys2Proof/Laws/Decode.lean ====
section
/-! SUPPORT. The fields of the command word, and the command word as bytes. -/

namespace Sys2Proof

/-- The number of a command word: the four fields side by side (R72). -/
theorem cmdWord_toNat (op : OpCode) (v : UuidValue) (l : Length) (c : CharWord) :
    (cmdWord op v l c).toNat = ((op.toNat * 2 ^ 128 + v.toNat) * 2 ^ 32 + l.toNat) * 2 ^ 176 + c.toNat := by
  have h := fun {n : Nat} (x : Nat) (y : BitVec n) => Nat.shiftLeft_add_eq_or_of_lt y.isLt x
  simp only [cmdWord, BitVec.toNat_append]
  rw [← h _ c, ← h _ l, ← h _ v]
  simp only [Nat.shiftLeft_eq]

theorem field_toNat (w : CmdWord) :
    (opField w).toNat = w.toNat / 2 ^ 336 ∧ (valueField w).toNat = w.toNat / 2 ^ 208 % 2 ^ 128 ∧
    (lenField w).toNat = w.toNat / 2 ^ 176 % 2 ^ 32 ∧ (charsField w).toNat = w.toNat % 2 ^ 176 := by
  have := w.isLt
  simp only [opField, valueField, lenField, charsField, BitVec.extractLsb'_toNat,
    Nat.shiftRight_eq_div_pow, Nat.pow_zero, Nat.div_one, and_self, and_true]
  omega

@[simp] theorem opField_cmdWord (op v l c) : opField (cmdWord op v l c) = op := by
  apply BitVec.eq_of_toNat_eq
  have h := cmdWord_toNat op v l c
  have := v.isLt; have := l.isLt; have := c.isLt
  rw [(field_toNat _).1]
  omega

@[simp] theorem valueField_cmdWord (op v l c) : valueField (cmdWord op v l c) = v := by
  apply BitVec.eq_of_toNat_eq
  have h := cmdWord_toNat op v l c
  have := v.isLt; have := l.isLt; have := c.isLt
  rw [(field_toNat _).2.1]
  omega

@[simp] theorem lenField_cmdWord (op v l c) : lenField (cmdWord op v l c) = l := by
  apply BitVec.eq_of_toNat_eq
  have h := cmdWord_toNat op v l c
  have := l.isLt; have := c.isLt
  rw [(field_toNat _).2.2.1]
  omega

@[simp] theorem charsField_cmdWord (op v l c) : charsField (cmdWord op v l c) = c := by
  apply BitVec.eq_of_toNat_eq
  have h := cmdWord_toNat op v l c
  have := c.isLt
  rw [(field_toNat _).2.2.2]
  omega

/-- A command word is its four fields. -/
@[simp] theorem cmdWord_fields (w : CmdWord) :
    cmdWord (opField w) (valueField w) (lenField w) (charsField w) = w := by
  apply BitVec.eq_of_toNat_eq
  have h := cmdWord_toNat (opField w) (valueField w) (lenField w) (charsField w)
  obtain ⟨h1, h2, h3, h4⟩ := field_toNat w
  have := w.isLt
  rw [h, h1, h2, h3, h4]
  omega

theorem decodeCmd_cmdWord (op v l c) :
    decodeCmd (cmdWord op v l c) =
      if op = 0b00 then .encode v l c else if op = 0b01 then .decode v l c
      else if op = 0b10 then .validate v l c else .rsv v l c := by
  simp [decodeCmd]

theorem opcode_cases : ∀ op : OpCode, op = 0b00 ∨ op = 0b01 ∨ op = 0b10 ∨ op = 0b11 := by decide

/-! Bytes -/

@[simp] theorem bytesOfNat_length (k n : Nat) : (bytesOfNat k n).length = k := by
  induction k generalizing n with
  | zero => rfl
  | succ k ih => simp [bytesOfNat, ih]

theorem natOfBytes_bytesOfNat (k n : Nat) : natOfBytes (bytesOfNat k n) = n % 256 ^ k := by
  induction k generalizing n with
  | zero => simp [bytesOfNat, natOfBytes, Nat.mod_one]
  | succ k ih =>
    have hp : 256 ^ (k + 1) = 256 * 256 ^ k := Nat.pow_succ'
    rw [bytesOfNat, natOfBytes, ih, BitVec.toNat_ofNat, hp, Nat.mod_mul]

theorem bytesOfNat_take (j k n : Nat) : (bytesOfNat (j + k) n).take j = bytesOfNat j n := by
  induction j generalizing n with
  | zero => simp [bytesOfNat]
  | succ j ih => rw [Nat.succ_add]; simp [bytesOfNat, ih]

end Sys2Proof
end

