-- ==== Sys2Proof/Laws/State.lean ====
section
/-! SUPPORT. Each field after each update of the state, so that no later proof unfolds a record update. -/

namespace Sys2Proof.Machine

@[simp] theorem holdEdge_eq (s : State) : holdEdge s = s := rfl

/-! `completed` -/

@[simp] theorem completed_busy (op : OpCode) (r : Response) (s : State) :
    (completed op r s).busy = false := rfl
@[simp] theorem completed_rspValid (op : OpCode) (r : Response) (s : State) :
    (completed op r s).rspValid = true := rfl
@[simp] theorem completed_rspOp (op : OpCode) (r : Response) (s : State) :
    (completed op r s).rspOp = op := rfl
@[simp] theorem completed_rspStatus (op : OpCode) (r : Response) (s : State) :
    (completed op r s).rspStatus = r.status := rfl
@[simp] theorem completed_rspIsvalid (op : OpCode) (r : Response) (s : State) :
    (completed op r s).rspIsvalid = r.isvalid := rfl
@[simp] theorem completed_rspValue (op : OpCode) (r : Response) (s : State) :
    (completed op r s).rspValue = r.value := rfl
@[simp] theorem completed_rspDigits (op : OpCode) (r : Response) (s : State) :
    (completed op r s).rspDigits = r.digits := rfl
@[simp] theorem completed_rspChars (op : OpCode) (r : Response) (s : State) :
    (completed op r s).rspChars = r.chars := rfl
@[simp] theorem completed_cmdOpL (op : OpCode) (r : Response) (s : State) :
    (completed op r s).cmdOpL = s.cmdOpL := rfl
@[simp] theorem completed_cmdValueL (op : OpCode) (r : Response) (s : State) :
    (completed op r s).cmdValueL = s.cmdValueL := rfl
@[simp] theorem completed_cmdLenL (op : OpCode) (r : Response) (s : State) :
    (completed op r s).cmdLenL = s.cmdLenL := rfl
@[simp] theorem completed_cmdCharsL (op : OpCode) (r : Response) (s : State) :
    (completed op r s).cmdCharsL = s.cmdCharsL := rfl
@[simp] theorem completed_remain (op : OpCode) (r : Response) (s : State) :
    (completed op r s).remain = 0 := rfl
@[simp] theorem completed_inputs (op : OpCode) (r : Response) (s : State) :
    (completed op r s).inputs = s.inputs := rfl
@[simp] theorem completed_freeTick (op : OpCode) (r : Response) (s : State) :
    (completed op r s).freeTick = s.freeTick := rfl

/-! `drawBusyOutputs` -/

@[simp] theorem drawBusyOutputs_busy (cmd : CmdWord) (s : State) :
    (drawBusyOutputs cmd s).busy = s.busy := rfl
@[simp] theorem drawBusyOutputs_rspValid (cmd : CmdWord) (s : State) :
    (drawBusyOutputs cmd s).rspValid = s.rspValid := rfl
@[simp] theorem drawBusyOutputs_rspOp (cmd : CmdWord) (s : State) :
    (drawBusyOutputs cmd s).rspOp = Config.busyOp (seed cmd s) := rfl
@[simp] theorem drawBusyOutputs_rspStatus (cmd : CmdWord) (s : State) :
    (drawBusyOutputs cmd s).rspStatus = Config.busyStatus (seed cmd s) := rfl
@[simp] theorem drawBusyOutputs_rspIsvalid (cmd : CmdWord) (s : State) :
    (drawBusyOutputs cmd s).rspIsvalid = Config.busyIsvalid (seed cmd s) := rfl
@[simp] theorem drawBusyOutputs_rspValue (cmd : CmdWord) (s : State) :
    (drawBusyOutputs cmd s).rspValue = Config.busyValue (seed cmd s) := rfl
@[simp] theorem drawBusyOutputs_rspDigits (cmd : CmdWord) (s : State) :
    (drawBusyOutputs cmd s).rspDigits = Config.busyDigits (seed cmd s) := rfl
@[simp] theorem drawBusyOutputs_rspChars (cmd : CmdWord) (s : State) :
    (drawBusyOutputs cmd s).rspChars = Config.busyChars (seed cmd s) := rfl
@[simp] theorem drawBusyOutputs_cmdOpL (cmd : CmdWord) (s : State) :
    (drawBusyOutputs cmd s).cmdOpL = s.cmdOpL := rfl
@[simp] theorem drawBusyOutputs_cmdValueL (cmd : CmdWord) (s : State) :
    (drawBusyOutputs cmd s).cmdValueL = s.cmdValueL := rfl
@[simp] theorem drawBusyOutputs_cmdLenL (cmd : CmdWord) (s : State) :
    (drawBusyOutputs cmd s).cmdLenL = s.cmdLenL := rfl
@[simp] theorem drawBusyOutputs_cmdCharsL (cmd : CmdWord) (s : State) :
    (drawBusyOutputs cmd s).cmdCharsL = s.cmdCharsL := rfl
@[simp] theorem drawBusyOutputs_remain (cmd : CmdWord) (s : State) :
    (drawBusyOutputs cmd s).remain = s.remain := rfl
@[simp] theorem drawBusyOutputs_inputs (cmd : CmdWord) (s : State) :
    (drawBusyOutputs cmd s).inputs = s.inputs := rfl
@[simp] theorem drawBusyOutputs_freeTick (cmd : CmdWord) (s : State) :
    (drawBusyOutputs cmd s).freeTick = s.freeTick + 1 := rfl

/-! `acceptEdge` -/

@[simp] theorem acceptEdge_busy (p : Ports) (s : State) :
    (acceptEdge p s).busy = true := rfl
@[simp] theorem acceptEdge_rspValid (p : Ports) (s : State) :
    (acceptEdge p s).rspValid = false := rfl
@[simp] theorem acceptEdge_rspOp (p : Ports) (s : State) :
    (acceptEdge p s).rspOp = Config.busyOp (seed (portWord p) s) := rfl
@[simp] theorem acceptEdge_rspStatus (p : Ports) (s : State) :
    (acceptEdge p s).rspStatus = Config.busyStatus (seed (portWord p) s) := rfl
@[simp] theorem acceptEdge_rspIsvalid (p : Ports) (s : State) :
    (acceptEdge p s).rspIsvalid = Config.busyIsvalid (seed (portWord p) s) := rfl
@[simp] theorem acceptEdge_rspValue (p : Ports) (s : State) :
    (acceptEdge p s).rspValue = Config.busyValue (seed (portWord p) s) := rfl
@[simp] theorem acceptEdge_rspDigits (p : Ports) (s : State) :
    (acceptEdge p s).rspDigits = Config.busyDigits (seed (portWord p) s) := rfl
@[simp] theorem acceptEdge_rspChars (p : Ports) (s : State) :
    (acceptEdge p s).rspChars = Config.busyChars (seed (portWord p) s) := rfl
@[simp] theorem acceptEdge_cmdOpL (p : Ports) (s : State) :
    (acceptEdge p s).cmdOpL = p.cmdOp := rfl
@[simp] theorem acceptEdge_cmdValueL (p : Ports) (s : State) :
    (acceptEdge p s).cmdValueL = p.cmdValue := rfl
@[simp] theorem acceptEdge_cmdLenL (p : Ports) (s : State) :
    (acceptEdge p s).cmdLenL = p.cmdLen := rfl
@[simp] theorem acceptEdge_cmdCharsL (p : Ports) (s : State) :
    (acceptEdge p s).cmdCharsL = p.cmdChars := rfl
@[simp] theorem acceptEdge_remain (p : Ports) (s : State) :
    (acceptEdge p s).remain = latency p.cmdOp (seed (portWord p) s) := rfl
@[simp] theorem acceptEdge_inputs (p : Ports) (s : State) :
    (acceptEdge p s).inputs = s.inputs := rfl
@[simp] theorem acceptEdge_freeTick (p : Ports) (s : State) :
    (acceptEdge p s).freeTick = s.freeTick + 1 := rfl

/-! `countdownEdge` -/

@[simp] theorem countdownEdge_busy (s : State) :
    (countdownEdge s).busy = s.busy := rfl
@[simp] theorem countdownEdge_rspValid (s : State) :
    (countdownEdge s).rspValid = s.rspValid := rfl
@[simp] theorem countdownEdge_rspOp (s : State) :
    (countdownEdge s).rspOp = Config.busyOp (seed (captured s) s) := rfl
@[simp] theorem countdownEdge_rspStatus (s : State) :
    (countdownEdge s).rspStatus = Config.busyStatus (seed (captured s) s) := rfl
@[simp] theorem countdownEdge_rspIsvalid (s : State) :
    (countdownEdge s).rspIsvalid = Config.busyIsvalid (seed (captured s) s) := rfl
@[simp] theorem countdownEdge_rspValue (s : State) :
    (countdownEdge s).rspValue = Config.busyValue (seed (captured s) s) := rfl
@[simp] theorem countdownEdge_rspDigits (s : State) :
    (countdownEdge s).rspDigits = Config.busyDigits (seed (captured s) s) := rfl
@[simp] theorem countdownEdge_rspChars (s : State) :
    (countdownEdge s).rspChars = Config.busyChars (seed (captured s) s) := rfl
@[simp] theorem countdownEdge_cmdOpL (s : State) :
    (countdownEdge s).cmdOpL = s.cmdOpL := rfl
@[simp] theorem countdownEdge_cmdValueL (s : State) :
    (countdownEdge s).cmdValueL = s.cmdValueL := rfl
@[simp] theorem countdownEdge_cmdLenL (s : State) :
    (countdownEdge s).cmdLenL = s.cmdLenL := rfl
@[simp] theorem countdownEdge_cmdCharsL (s : State) :
    (countdownEdge s).cmdCharsL = s.cmdCharsL := rfl
@[simp] theorem countdownEdge_remain (s : State) :
    (countdownEdge s).remain = s.remain - 1 := rfl
@[simp] theorem countdownEdge_inputs (s : State) :
    (countdownEdge s).inputs = s.inputs := rfl
@[simp] theorem countdownEdge_freeTick (s : State) :
    (countdownEdge s).freeTick = s.freeTick + 1 := rfl

/-! `resetEdge` -/

@[simp] theorem resetEdge_busy (s : State) :
    (resetEdge s).busy = false := rfl
@[simp] theorem resetEdge_rspValid (s : State) :
    (resetEdge s).rspValid = false := rfl
@[simp] theorem resetEdge_rspOp (s : State) :
    (resetEdge s).rspOp = 0 := rfl
@[simp] theorem resetEdge_rspStatus (s : State) :
    (resetEdge s).rspStatus = 0 := rfl
@[simp] theorem resetEdge_rspIsvalid (s : State) :
    (resetEdge s).rspIsvalid = false := rfl
@[simp] theorem resetEdge_rspValue (s : State) :
    (resetEdge s).rspValue = 0 := rfl
@[simp] theorem resetEdge_rspDigits (s : State) :
    (resetEdge s).rspDigits = 0 := rfl
@[simp] theorem resetEdge_rspChars (s : State) :
    (resetEdge s).rspChars = 0 := rfl
@[simp] theorem resetEdge_cmdOpL (s : State) :
    (resetEdge s).cmdOpL = Config.resetCmdOp (seed (captured s) s) := rfl
@[simp] theorem resetEdge_cmdValueL (s : State) :
    (resetEdge s).cmdValueL = Config.resetCmdValue (seed (captured s) s) := rfl
@[simp] theorem resetEdge_cmdLenL (s : State) :
    (resetEdge s).cmdLenL = Config.resetCmdLen (seed (captured s) s) := rfl
@[simp] theorem resetEdge_cmdCharsL (s : State) :
    (resetEdge s).cmdCharsL = Config.resetCmdChars (seed (captured s) s) := rfl
@[simp] theorem resetEdge_remain (s : State) :
    (resetEdge s).remain = 0 := rfl
@[simp] theorem resetEdge_inputs (s : State) :
    (resetEdge s).inputs = s.inputs := rfl
@[simp] theorem resetEdge_freeTick (s : State) :
    (resetEdge s).freeTick = s.freeTick + 1 := rfl

/-! `taken` -/

@[simp] theorem taken_busy (s : State) :
    (taken s).busy = s.busy := rfl
@[simp] theorem taken_rspValid (s : State) :
    (taken s).rspValid = s.rspValid := rfl
@[simp] theorem taken_rspOp (s : State) :
    (taken s).rspOp = s.rspOp := rfl
@[simp] theorem taken_rspStatus (s : State) :
    (taken s).rspStatus = s.rspStatus := rfl
@[simp] theorem taken_rspIsvalid (s : State) :
    (taken s).rspIsvalid = s.rspIsvalid := rfl
@[simp] theorem taken_rspValue (s : State) :
    (taken s).rspValue = s.rspValue := rfl
@[simp] theorem taken_rspDigits (s : State) :
    (taken s).rspDigits = s.rspDigits := rfl
@[simp] theorem taken_rspChars (s : State) :
    (taken s).rspChars = s.rspChars := rfl
@[simp] theorem taken_cmdOpL (s : State) :
    (taken s).cmdOpL = s.cmdOpL := rfl
@[simp] theorem taken_cmdValueL (s : State) :
    (taken s).cmdValueL = s.cmdValueL := rfl
@[simp] theorem taken_cmdLenL (s : State) :
    (taken s).cmdLenL = s.cmdLenL := rfl
@[simp] theorem taken_cmdCharsL (s : State) :
    (taken s).cmdCharsL = s.cmdCharsL := rfl
@[simp] theorem taken_remain (s : State) :
    (taken s).remain = s.remain := rfl
@[simp] theorem taken_inputs (s : State) :
    (taken s).inputs = s.inputs.tail := rfl
@[simp] theorem taken_freeTick (s : State) :
    (taken s).freeTick = s.freeTick := rfl

/-! `accepted` -/

@[simp] theorem accepted_busy (w : CmdWord) (s : State) :
    (accepted w s).busy = true := rfl
@[simp] theorem accepted_rspValid (w : CmdWord) (s : State) :
    (accepted w s).rspValid = false := rfl
@[simp] theorem accepted_rspOp (w : CmdWord) (s : State) :
    (accepted w s).rspOp = s.rspOp := rfl
@[simp] theorem accepted_rspStatus (w : CmdWord) (s : State) :
    (accepted w s).rspStatus = s.rspStatus := rfl
@[simp] theorem accepted_rspIsvalid (w : CmdWord) (s : State) :
    (accepted w s).rspIsvalid = s.rspIsvalid := rfl
@[simp] theorem accepted_rspValue (w : CmdWord) (s : State) :
    (accepted w s).rspValue = s.rspValue := rfl
@[simp] theorem accepted_rspDigits (w : CmdWord) (s : State) :
    (accepted w s).rspDigits = s.rspDigits := rfl
@[simp] theorem accepted_rspChars (w : CmdWord) (s : State) :
    (accepted w s).rspChars = s.rspChars := rfl
@[simp] theorem accepted_cmdOpL (w : CmdWord) (s : State) :
    (accepted w s).cmdOpL = opField w := rfl
@[simp] theorem accepted_cmdValueL (w : CmdWord) (s : State) :
    (accepted w s).cmdValueL = valueField w := rfl
@[simp] theorem accepted_cmdLenL (w : CmdWord) (s : State) :
    (accepted w s).cmdLenL = lenField w := rfl
@[simp] theorem accepted_cmdCharsL (w : CmdWord) (s : State) :
    (accepted w s).cmdCharsL = charsField w := rfl
@[simp] theorem accepted_remain (w : CmdWord) (s : State) :
    (accepted w s).remain = 1 := rfl
@[simp] theorem accepted_inputs (w : CmdWord) (s : State) :
    (accepted w s).inputs = idleFirst s.inputs := rfl
@[simp] theorem accepted_freeTick (w : CmdWord) (s : State) :
    (accepted w s).freeTick = s.freeTick := rfl

end Sys2Proof.Machine
end

