-- ==== Sys2Proof/Laws/Exec.lean ====
section
/-! SUPPORT. What completing a command can do: `exec` always answers the next state in which the response
of the command has been written, and nothing else has changed. -/

namespace Sys2Proof.Machine

theorem complete_eq (op : OpCode) (r : Response) (s : State) :
    complete op r s = if statusUnused r.status then .fault .statusCodeUnreachable else .next (completed op r s) :=
  rfl

theorem complete_next {op : OpCode} {r : Response} {s t : State} :
    complete op r s = .next t ↔ statusUnused r.status = false ∧ t = completed op r s := by
  rw [complete_eq]
  cases statusUnused r.status <;> simp [eq_comm]

theorem statusUnused_statusCode (st : Status) : statusUnused (statusCode st) = false := by
  cases st <;> decide

@[simp] theorem bare_status (st : Status) : (bare st).status = statusCode st := rfl

theorem decodeF_status (l : Length) (w : CharWord) : statusUnused (decodeF l w).status = false := by
  rw [decodeF_eq]
  split
  · exact statusUnused_statusCode .errLength
  split
  · exact statusUnused_statusCode .errSymbol
  split
  · exact statusUnused_statusCode .errRange
  · exact statusUnused_statusCode .ok

/-- Every command answers, with a status the table of R200 uses. -/
theorem respond_spec (i : Instr) : ∃ r, respond i = some r ∧ statusUnused r.status = false := by
  cases i with
  | encode v l c =>
    obtain ⟨cs, -, -, -, -, h⟩ := encodeF_spec v
    exact ⟨_, h, statusUnused_statusCode .ok⟩
  | decode v l c => exact ⟨_, rfl, decodeF_status l c⟩
  | validate v l c => exact ⟨_, rfl, statusUnused_statusCode .ok⟩
  | rsv v l c => exact ⟨_, rfl, statusUnused_statusCode .errOpcode⟩

/-- Executing a command writes its response and nothing else. -/
theorem exec_spec (i : Instr) (s : State) {r : Response} (h : respond i = some r) :
    exec i s = .next (completed i.op r s) := by
  obtain ⟨r', h', hu⟩ := respond_spec i
  obtain rfl : r = r' := by simpa [h] using h'
  cases i with
  | encode v l c =>
    simp only [respond] at h
    simp only [exec, execEncode, h, complete_eq, hu, Bool.false_eq_true, if_false, Instr.op]
  | decode v l c =>
    obtain rfl : decodeF l c = r := by simpa [respond] using h
    simp only [exec, execDecode, complete_eq, hu, Bool.false_eq_true, if_false, Instr.op]
  | validate v l c =>
    obtain rfl : validateF l c = r := by simpa [respond] using h
    simp only [exec, execValidate, complete_eq, hu, Bool.false_eq_true, if_false, Instr.op]
  | rsv v l c =>
    obtain rfl : bare .errOpcode = r := by simpa [respond] using h
    simp only [exec, execRsv, complete_eq, hu, Bool.false_eq_true, if_false, Instr.op]

@[simp] theorem response_completed (op : OpCode) (r : Response) (s : State) :
    response (completed op r s) = r := rfl

@[simp] theorem captured_completed (op : OpCode) (r : Response) (s : State) :
    captured (completed op r s) = captured s := rfl

end Sys2Proof.Machine
end

