-- ==== Sys2Proof/Laws/Step.lean ====
section
/-! SUPPORT. Everything one rising edge can do (R235), said once. -/

namespace Sys2Proof.Machine

@[simp] theorem captured_acceptEdge (p : Ports) (s : State) : captured (acceptEdge p s) = portWord p := rfl
@[simp] theorem captured_countdownEdge (s : State) : captured (countdownEdge s) = captured s := rfl
@[simp] theorem captured_taken (s : State) : captured (taken s) = captured s := rfl
@[simp] theorem captured_accepted (w : CmdWord) (s : State) : captured (accepted w s) = w := cmdWord_fields w
@[simp] theorem response_resetEdge (s : State) : response (resetEdge s) = ⟨0, false, 0, 0, 0⟩ := rfl
@[simp] theorem response_taken (s : State) : response (taken s) = response s := rfl

theorem Config.bounded_range (n : Nat) : 1 ≤ Config.bounded n ∧ Config.bounded n ≤ Config.latMax := by
  have : n % Config.latMax < Config.latMax := Nat.mod_lt _ (Nat.succ_pos _)
  unfold Config.bounded
  omega

/-- 1 ≤ L ≤ LAT_MAX (R32). -/
theorem latency_range (op : OpCode) (z : Config.Seed) : 1 ≤ latency op z ∧ latency op z ≤ Config.latMax := by
  unfold latency
  split
  · exact Config.bounded_range _
  split
  · exact Config.bounded_range _
  split <;> exact Config.bounded_range _

/-- The op code of the command a word stands for is the word's op field. -/
theorem op_decodeCmd (w : CmdWord) : (decodeCmd w).op = opField w := by
  rcases opcode_cases (opField w) with h | h | h | h <;> simp [decodeCmd, h, Instr.op]

/-- The five cases of an edge. -/
theorem edge_cases (p : Ports) (s : State) :
    (p.rst = true ∧ edge p s = .next (resetEdge s)) ∨
    (p.rst = false ∧ s.busy = false ∧ p.cmdValid = true ∧ edge p s = .next (acceptEdge p s)) ∨
    (p.rst = false ∧ s.busy = true ∧ s.remain = 1 ∧ ∃ r, respond (decodeCmd (captured s)) = some r ∧
      edge p s = .next (completed s.cmdOpL r s)) ∨
    (p.rst = false ∧ s.busy = true ∧ s.remain ≠ 1 ∧ edge p s = .next (countdownEdge s)) ∨
    (p.rst = false ∧ s.busy = false ∧ p.cmdValid = false ∧ edge p s = .next s) := by
  unfold edge
  cases hr : p.rst
  · cases hb : s.busy
    · cases hv : p.cmdValid <;> simp
    · by_cases h1 : s.remain = 1
      · obtain ⟨r, hr', -⟩ := respond_spec (decodeCmd (captured s))
        have := exec_spec _ s hr'
        rw [op_decodeCmd] at this
        simp only [captured, opField_cmdWord] at this hr'
        simp [h1, captured, hr', this]
      · simp [h1]
  · simp

/-- The step by the sample it takes. -/
theorem step_binary {s : State} {p : Ports} (h : sampleOf s.inputs = .binary p) :
    step s = edge p (taken s) := by simp [step, h, sampleEdge]

theorem step_notBinary {s : State} (h : sampleOf s.inputs = .notBinary) :
    step s = .refused .portNotBinary := by simp [step, h, sampleEdge]

theorem step_contended {s : State} (h : sampleOf s.inputs = .contended) :
    step s = .refused .commandPortsContended := by simp [step, h, sampleEdge]

/-- A step that answers a next state took a sample inside the spec. -/
theorem step_next_binary {s t : State} (h : step s = .next t) :
    ∃ p, sampleOf s.inputs = .binary p ∧ edge p (taken s) = .next t := by
  cases hx : sampleOf s.inputs with
  | binary p => exact ⟨p, rfl, by rw [← h, step_binary hx]⟩
  | notBinary => rw [step_notBinary hx] at h; cases h
  | contended => rw [step_contended hx] at h; cases h

/-- One step of a run of any machine. -/
theorem run_of_next (M : Host.Core) (k : Nat) {s t : M.State} (h : M.step s = .next t) :
    M.run (k + 1) s = M.run k t := by
  simp only [Host.Core.run, h]

/-- One step of a run of the block. -/
theorem core_run_succ (k : Nat) {s t : State} (h : step s = .next t) :
    Sys2Proof.core.run (k + 1) s = Sys2Proof.core.run k t :=
  run_of_next Sys2Proof.core k h

end Sys2Proof.Machine
end

