-- ==== Sys2Proof/Laws/Driver.lean ====
section
/-! SUPPORT. What the front of a host program settles to, what the host then drives, and one edge of a host and
its block. -/

namespace Sys2Proof.Machine

@[simp] theorem settle_nil (v a : Bool) : settle v [] a = ([], a) := rfl
@[simp] theorem settle_issue (v a : Bool) (i : Instr) (rest : List HostAct) :
    settle v (.issue i :: rest) a = (.issue i :: rest, a) := rfl
@[simp] theorem settle_pulse (v a : Bool) (i : Instr) (rest : List HostAct) :
    settle v (.pulse i :: rest) a = (.pulse i :: rest, a) := rfl
@[simp] theorem settle_reset (v a : Bool) (rest : List HostAct) :
    settle v (.reset :: rest) a = (.reset :: rest, a) := rfl
@[simp] theorem settle_wait_invalid (a : Bool) (rest : List HostAct) :
    settle false (.wait :: rest) a = (.wait :: rest, a) := rfl
@[simp] theorem settle_wait_valid (a : Bool) (rest : List HostAct) :
    settle true (.wait :: rest) a = settle true rest false := rfl
@[simp] theorem settle_idle_zero (v a : Bool) (rest : List HostAct) :
    settle v (.idle 0 :: rest) a = settle v rest false := rfl
@[simp] theorem settle_idle_succ (v a : Bool) (k : Nat) (rest : List HostAct) :
    settle v (.idle (k + 1) :: rest) a = (.idle (k + 1) :: rest, a) := rfl

/-- What settling leaves needs no second settling, so its front takes an edge. -/
theorem settle_settle (v : Bool) : ∀ (acts : List HostAct) (a : Bool),
    settle v (settle v acts a).1 (settle v acts a).2 = settle v acts a
  | [], _ => rfl
  | .issue _ :: _, _ => rfl
  | .pulse _ :: _, _ => rfl
  | .reset :: _, _ => rfl
  | .idle 0 :: rest, _ => settle_settle v rest false
  | .idle (_ + 1) :: _, _ => rfl
  | .wait :: rest, _ => by
    cases v with
    | false => rfl
    | true => exact settle_settle true rest false

/-- One edge of host and block, from what the host drives and the block's step on that one sample. -/
theorem systemStep_of_step {acts rest : List HostAct} {a b : Bool} {s t : State} {p : Ports}
    (hd : drive (outputs s).cmdReady (outputs s).rspValid acts a = (p, rest, b))
    (hs : step { s with inputs := [.binary p] } = .next t) :
    systemStep ⟨acts, a, s⟩ = .next ⟨rest, b, t⟩ := by
  simp only [systemStep, hd, hs]

theorem systemRun_succ_of_next {y z : System} (k : Nat) (h : systemStep y = .next z) :
    systemRun (k + 1) y = systemRun k z := by simp only [systemRun, h]

end Sys2Proof.Machine
end

