-- ==== Sys2Proof/Laws/PerInstr.lean ====
section
/-! SUPPORT. What holds of every instruction as syntax, one lemma for each constructor. -/

/-- The four fields of the command word of an instruction are the instruction's (R72, R73). -/
def Sys2Proof.Laws.Fields.Statement (i : Sys2Proof.Instr) : Prop :=
  Sys2Proof.opField (Sys2Proof.encodeCmd i) = i.op ∧ Sys2Proof.valueField (Sys2Proof.encodeCmd i) = i.value ∧
  Sys2Proof.lenField (Sys2Proof.encodeCmd i) = i.len ∧ Sys2Proof.charsField (Sys2Proof.encodeCmd i) = i.chars

namespace Sys2Proof.Laws.Fields

theorem encode (v : UuidValue) (l : Length) (c : CharWord) : Statement (.encode v l c) := by
  simp [Statement, encodeCmd]

theorem decode (v : UuidValue) (l : Length) (c : CharWord) : Statement (.decode v l c) := by
  simp [Statement, encodeCmd]

theorem validate (v : UuidValue) (l : Length) (c : CharWord) : Statement (.validate v l c) := by
  simp [Statement, encodeCmd]

theorem rsv (v : UuidValue) (l : Length) (c : CharWord) : Statement (.rsv v l c) := by
  simp [Statement, encodeCmd]

end Sys2Proof.Laws.Fields
end

