-- ==== Sys2Proof/Tests/Slice0.lean ====
section
/-! SUPPORT. Tests on the spec's own vectors (95_test_vectors.md), the well-formedness smoke tests, and for each
statement with hypotheses a state and operands that meet them all. -/

/-! One theorem after the other: many waiting for the kernel at once take more memory than check.sh allows. -/

set_option Elab.async false

namespace Sys2Proof.Machine.Tests

/-- Does the outcome answer a next state with the property? -/
def nextIs (o : Host.Outcome State Fault Refusal) (f : State → Bool) : Bool :=
  match o with
  | .next t => f t
  | .fault _ => false
  | .refused _ => false

/-! Well-formedness (R81): each check refuses an ill-formed statement. -/

/-- 23 characters. -/
def text23 : List Char := List.replicate 23 '1'

theorem test_wf_refuses_len_over_32_bits :
    (Statement.command .decode none (some (2 ^ 32)) none).wf = false := by decide
theorem test_wf_accepts_the_saturated_len :
    (Statement.command .decode none (some (2 ^ 32 - 1)) none).wf = true := by decide
theorem test_wf_refuses_a_long_text_without_len :
    (Statement.command .decode none none (some (.text text23))).wf = false := by decide
theorem test_wf_refuses_a_long_text_with_len_22 :
    (Statement.command .decode none (some 22) (some (.text text23))).wf = false := by decide
theorem test_wf_accepts_a_long_text_with_another_len :
    (Statement.command .decode none (some 23) (some (.text text23))).wf = true := by decide
theorem test_wf_accepts_every_command : (Instr.rsv 0 0 0).wf = true ∧ (Instr.encode 5 7 9).wf = true := by decide

/-! Decoding: the words of V1, P2 and T-R, and the rows of opcode_table.json as the table numbers them. -/

theorem test_decode_encode_word :
    decodeTableWord 344 0x0f4b247fd1f8745d4aa061c6fc0a8dfaf0000000000000000000000000000000000000000000000000000 =
      some (.encode 0xf4b247fd1f8745d4aa061c6fc0a8dfaf 0 0) := by decide +kernel
theorem test_decode_decode_word :
    decodeTableWord 344 0x1000000000000000000000000000000000000001658445939646d4262634d425871635276597738784a32 =
      some (.decode 0 22 0x58445939646d4262634d425871635276597738784a32) := by decide +kernel
theorem test_decode_validate_word :
    decodeTableWord 344 0x2000000000000000000000000000000000000001659635666786b5162364a527a716b356b4632744e4c76 =
      some (.validate 0 22 0x59635666786b5162364a527a716b356b4632744e4c76) := by decide +kernel
theorem test_decode_reserved_word :
    decodeTableWord 344 0x3ffffffffffffffffffffffffffffffff0000001659635666786b5162364a527a716b356b4632744e4c76 =
      some (.rsv 0xffffffffffffffffffffffffffffffff 22 0x59635666786b5162364a527a716b356b4632744e4c76) := by
  decide +kernel
theorem test_decode_refuses_a_bit_above_the_word :
    decodeTableWord 344 0x4000000000000000000000000000000000000000000000000000000000000000000000000000000000000 =
      none := by decide +kernel
theorem test_decode_refuses_truncated_bytes : decodeBytes [0x00] = .error .truncated := by decide
theorem test_encode_word_of_the_example :
    encodeCmd (.encode 0xf4b247fd1f8745d4aa061c6fc0a8dfaf 0 0) =
      0x0f4b247fd1f8745d4aa061c6fc0a8dfaf0000000000000000000000000000000000000000000000000000 := by decide +kernel

/-! A placed command is run by the next step, the first after reset. -/

theorem test_placed_encode_runs :
    nextIs (step (State.reset.withFetchWord 344 0)) (fun t => t.rspOp == 0 && t.rspStatus == 0 &&
      t.rspChars == 0x31313131313131313131313131313131313131313131) = true := by decide +kernel
theorem test_placed_decode_runs :
    nextIs (step (State.reset.withFetchWord 344
        0x1000000000000000000000000000000000000001658445939646d4262634d425871635276597738784a32))
      (fun t => t.rspOp == 1 && t.rspStatus == 0 && t.rspValue == 0xf4b247fd1f8745d4aa061c6fc0a8dfaf) = true := by
  decide +kernel
theorem test_placed_validate_runs :
    nextIs (step (State.reset.withFetchWord 344
        0x2000000000000000000000000000000000000001659635666786b5162364a527a716b356b4632744e4c76))
      (fun t => t.rspOp == 2 && t.rspStatus == 0 && t.rspIsvalid) = true := by decide +kernel
theorem test_placed_reserved_runs :
    nextIs (step (State.reset.withFetchWord 344
        0x3000000000000000000000000000000000000000000000000000000000000000000000000000000000000))
      (fun t => t.rspOp == 3 && t.rspStatus == 4 && !t.busy && t.rspValid) = true := by decide +kernel

/-! ENCODE, DECODE, VALIDATE: rows E12, E18 of T-E and D7, D8, D14, D16, D26 of T-D. -/

theorem test_encode_top_bit :
    encodeF (2 ^ 127) = some ⟨0, false, 0, 0x3eead36f2a2e0a5a5cd557d5900da79b8,
      0x476f6b4c5573686f33656956764e594e643177676679⟩ := by decide +kernel
theorem test_encode_mixed_digits :
    encodeF 0x0123456789abcdef0123456789abcdef = some ⟨0, false, 0, 0x008224b45c868a0b9cbeae5f8e97159d5,
      0x313939646e367337625a6f56706a7a596369564e674e⟩ := by decide +kernel
theorem test_decode_lane_20_below_max :
    decodeF 22 0x59635666786b5162364a527a716b356b4632744e4b7a = ⟨0, false, 0xffffffffffffffffffffffffffffffc9, 0, 0⟩ := by
  decide +kernel
theorem test_decode_is_case_sensitive :
    decodeF 22 0x78647939646d6262636d627871637276797738786a32 = ⟨3, false, 0, 0, 0⟩ := by decide +kernel
theorem test_validate_hyphen : verdict 22 0x3131313131313131312d313131313131313131313131 = false := by decide +kernel
theorem test_validate_length_23 : verdict 23 0x31313131313131313131313131313131313131313131 = false := by decide +kernel

/-! T-A: the codes at the edges of the six ranges. -/

theorem test_dig_at_the_range_edges :
    [0x31#8, 0x39#8, 0x41#8, 0x48#8, 0x4A#8, 0x4E#8, 0x50#8, 0x5A#8, 0x61#8, 0x6B#8, 0x6D#8, 0x7A#8].map dig =
      [⟨true, 0⟩, ⟨true, 8⟩, ⟨true, 9⟩, ⟨true, 16⟩, ⟨true, 17⟩, ⟨true, 21⟩, ⟨true, 22⟩, ⟨true, 32⟩, ⟨true, 33⟩,
       ⟨true, 43⟩, ⟨true, 44⟩, ⟨true, 57⟩] := by decide
theorem test_dig_outside_the_ranges :
    [0x00#8, 0x2D#8, 0x30#8, 0x3A#8, 0x40#8, 0x49#8, 0x4F#8, 0x5B#8, 0x60#8, 0x6C#8, 0x7B#8, 0x80#8, 0xFF#8].all
      (fun c => dig c == ⟨false, 0⟩) = true := by decide

/-! T-T: one edge each (T1, T3, T4, T6). -/

/-- An idle block whose next sample is `p`. -/
def idleWith (p : Ports) : State := { State.reset with inputs := [.binary p] }

/-- A block that holds the command word `w`, with `n` edges to completion and next sample `p`. -/
def busyWith (w : CmdWord) (n : Nat) (p : Ports) : State :=
  { accepted w State.reset with remain := n, inputs := [.binary p] }

/-- Ports that present ENCODE of 1. -/
def encodeOne : Ports := ⟨false, true, 0, 1, 0, 0⟩

/-- Ports with `rst = 1` and a command. -/
def resetWithCommand : Ports := ⟨true, true, 0, 1, 0, 0⟩

theorem test_accept_edge :
    nextIs (step (idleWith encodeOne)) (fun t => t.busy && !t.rspValid && t.cmdValueL == 1) = true := by decide
theorem test_reset_beats_completion :
    nextIs (step (busyWith 0 1 resetWithCommand)) (fun t => !t.busy && !t.rspValid && t.rspChars == 0) = true := by
  decide
theorem test_reset_beats_accept :
    nextIs (step (idleWith resetWithCommand)) (fun t => !t.busy && t.remain == 0) = true := by decide
theorem test_completion_ignores_the_ports :
    nextIs (step (busyWith (0b11 <<< 336) 1 encodeOne)) (fun t => t.rspOp == 3 && t.rspStatus == 4) = true := by
  decide +kernel
theorem test_countdown :
    nextIs (step (busyWith 0 3 idlePorts)) (fun t => t.busy && t.remain == 2 && !t.rspValid) = true := by decide

/-! T-H and V9: the host's text layer. -/

theorem test_parse_example :
    parseUuid "f4b247fd-1f87-45d4-aa06-1c6fc0a8dfaf".toList = .ok 0xf4b247fd1f8745d4aa061c6fc0a8dfaf := by
  decide +kernel
theorem test_parse_upper_case_without_hyphens :
    parseUuid "F4B247FD1F8745D4AA061C6FC0A8DFAF".toList = .ok 0xf4b247fd1f8745d4aa061c6fc0a8dfaf := by decide +kernel
theorem test_parse_31_digits :
    parseUuid "f4b247fd-1f87-45d4-aa06-1c6fc0a8dfa".toList = .error .encodeError := by decide +kernel
theorem test_parse_bad_digit :
    parseUuid "g4b247fd-1f87-45d4-aa06-1c6fc0a8dfaf".toList = .error .encodeError := by decide +kernel
theorem test_render_greatest_version_4 :
    renderUuid (shapeV4 (2 ^ 128 - 1)) = "ffffffff-ffff-4fff-bfff-ffffffffffff".toList := by decide +kernel
theorem test_host_encode_example :
    hostEncode "f4b247fd-1f87-45d4-aa06-1c6fc0a8dfaf".toList = .ok "XDY9dmBbcMBXqcRvYw8xJ2".toList := by
  decide +kernel
theorem test_pack_non_ascii :
    packText ('1' :: 'é' :: List.replicate 20 '1') = 0x31803131313131313131313131313131313131313131 := by
  decide +kernel
theorem test_generate_least : hostGenerate (some 0) = .ok "111111114bZ6BZRUqUqZeo".toList := by decide +kernel

/-! R81, R82: statements. -/

theorem test_expand_decode_text :
    (expandStatement (.decodeS ['1'])).toOption =
      some [.issue (.decode 0 1 0x31000000000000000000000000000000000000000000)] := by decide +kernel
theorem test_expand_left_out_fields :
    (expandStatement (.command .validate none (some 7) none)).toOption = some [.issue (.validate 0 7 0)] := by decide
theorem test_drive_wait_ends_when_valid :
    drive true true [.wait, .reset] true = (resetPorts, [], false) := by decide
theorem test_drive_idle_counts :
    drive true false [.idle 2, .reset] true = (idlePorts, [.idle 1, .reset], false) := by decide
theorem test_expand_refuses_a_len_that_would_wrap :
    expandStatement (.command .decode none (some (2 ^ 32 + 22)) none) = .error .notAStatement := by decide

/-- `ENCODE ...; IDLE 1` one edge after the accept edge, with latency 2. -/
def lastIdle : System := ⟨[.idle 1], true, busyWith 0 2 idlePorts⟩

/-- R248: the program ends when the one cycle of its IDLE has passed, with the command still in flight. -/
theorem test_last_idle_ends_after_its_cycle :
    lastIdle.ended = false ∧
    (match systemStep lastIdle with
      | .next z => z.ended && z.block.busy && z.block.remain == 1
      | .fault _ => false
      | .refused _ => false) = true := by decide

/-! The hypotheses of the statements are met. -/

theorem witness_EncodedCommandDecodesBack : (Instr.rsv (2 ^ 128 - 1) 22 5).wf = true := by decide
theorem witness_CommandWordHoldsTheFieldsSideBySide : (0 : Nat) < 22 ∧ (21 : Nat) < 22 := by decide
theorem witness_OpFieldAloneSelectsTheOperation :
    opField 0 = 0b00 ∧ opField (0b01 <<< 336) = 0b01 ∧ opField (0b10 <<< 336) = 0b10 ∧
    opField (0b11 <<< 336) = 0b11 := by decide +kernel
theorem witness_EveryWordSelectsExactlyOneRow : rowSelects .validate (0b10 <<< 336) = true := by decide +kernel
theorem witness_SymAndDigAreInverse :
    (57#6).toNat < 58 ∧ (dig 0x7A).member = true ∧ (dig 0x7B).member = false ∧ 58 ≤ (58#6).toNat := by decide
theorem witness_SymbolCodesAscendWithTheirDigits : (56#6 : Digit) < 57#6 ∧ (57#6).toNat < 58 := by decide
theorem witness_MaximumStringTablesAgree : (21 : Nat) < 22 := by decide
theorem witness_EncodeCompletesWithTheExpansion : (0 : Nat) < 22 ∧ (21 : Nat) < 22 := by decide
theorem witness_EncodeDigitsRepresentTheValue : (0 : Nat) < 22 ∧ (21 : Nat) < 22 := by decide
theorem witness_TwentyTwoPositionsAreJustEnough :
    (0x0819237f3896f2f30bb832ce3d9fffff#128).toNat < 58 ^ 21 ∧
    ¬ (0x0819237f3896f2f30bb832ce3da00000#128).toNat < 58 ^ 21 := by decide
theorem witness_SourceLoopGivesTheSameDigits : (22 : Nat) ≤ 22 := by decide
theorem witness_DontCareFieldsHaveNoEffect : (21 : Length) ≠ 22 := by decide
/-- Each of the four cases: E14's string, MAX plus one, an excluded character, length 21. -/
theorem witness_DecodeCompletesWithTheContraction :
    (decodeF 22 0x59635666786b5162364a527a716b356b4632744e4c76).status = 0 ∧
    (decodeF 22 0x59635666786b5162364a527a716b356b4632744e4c77).status = 3 ∧
    (decodeF 22 0x3131313131313131313131313131313131313131314f).status = 2 ∧
    (decodeF 21 0x31313131313131313131313131313131313131313100).status = 1 := by decide +kernel
theorem witness_LeadingDigitAboveThirtyOneIsOutOfRange :
    (∀ i < 22, member (lane8 0x5a313131313131313131313131313131313131313131 i) = true) ∧
    lane8 0x5a313131313131313131313131313131313131313131 0 = 0x5A ∧
    (∀ i < 22, member (lane8 0x7a7a7a7a7a7a7a7a7a7a7a7a7a7a7a7a7a7a7a7a7a7a i) = true) ∧
    (lane8 0x7a7a7a7a7a7a7a7a7a7a7a7a7a7a7a7a7a7a7a7a7a7a 0).toNat = 0x7A := by decide +kernel
/-- All digits equal MAX's; the first differing digit below MAX's; above MAX's. -/
theorem witness_ValidateCompletesWithTheVerdict :
    verdict 22 0x59635666786b5162364a527a716b356b4632744e4c76 = true ∧
    verdict 22 0x59635666786b5162364a527a716b356b4632744e4c75 = true ∧
    verdict 22 0x59635666786b5162364a527a716b356b4632744e4c77 = false := by decide +kernel
theorem witness_ExcludedCharactersAreRejectedAtAnyLength :
    lane8 0x30313131313131313131313131313131313131313131 0 ∈ [0x30#8, 0x4F#8, 0x49#8, 0x6C#8] ∧
    0x80 ≤ (lane8 0x31313131313131313131313131313131313131313180 21).toNat := by decide +kernel
theorem witness_EncodeInvertsDecode :
    nextIs (exec (.decode 0 22 0x59635666786b5162364a527a716b356b4632744e4c76) State.reset)
      (fun t => t.rspStatus == 0) = true := by decide +kernel
theorem witness_EncodeImageIsTheAcceptedStrings :
    (encodeF 58).map (fun r => r.chars) = some 0x31313131313131313131313131313131313131313231 := by decide +kernel
theorem witness_CompletionWritesOnlyTheStatusesOfItsOperation :
    (Instr.encode 0 0 0).row = .encode ∧ (Instr.decode 0 0 0).row = .decode ∧
    (Instr.validate 0 0 0).row = .validate ∧ (Instr.rsv 0 0 0).row = .rsv := by decide
theorem witness_ErrorResponsesCarryNoData :
    nextIs (exec (.decode 0 21 0) State.reset) (fun t => t.rspStatus != 0) = true ∧
    (Instr.encode 0 0 0).row ≠ .validate ∧ (Instr.encode 0 0 0).row ≠ .decode ∧
    (Instr.decode 0 0 0).row ≠ .encode := by decide +kernel
theorem witness_UnusedStatusCodesFault :
    4 < (5#3 : StatusCode).toNat ∧ (4#3 : StatusCode).toNat ≤ 4 ∧ 58 ≤ (58#6 : Digit).toNat := by decide
theorem witness_ReservedOpCompletesWithErrOpcode :
    sampleOf (idleWith ⟨false, true, 0b11, 0, 0, 0⟩).inputs = .binary ⟨false, true, 0b11, 0, 0, 0⟩ ∧
    (idleWith ⟨false, true, 0b11, 0, 0, 0⟩).busy = false := by decide
theorem witness_CompletionEdgeExecutesTheCapturedCommand :
    sampleOf (busyWith 5 1 encodeOne).inputs = .binary encodeOne ∧ encodeOne.rst = false ∧
    (busyWith 5 1 encodeOne).busy = true ∧ (busyWith 5 1 encodeOne).remain = 1 := by decide
theorem witness_PlacedCommandRunsAtTheNextStep :
    decodeTableWord 344 0x2000000000000000000000000000000000000000000000000000000000000000000000000000000000007 =
      some (.validate 0 0 7) := by decide +kernel
theorem witness_ResetEdgeClearsEveryVisibleRegister :
    sampleOf (busyWith 5 1 resetWithCommand).inputs = .binary resetWithCommand ∧ resetWithCommand.rst = true := by
  decide
theorem witness_OneResetEdgeAfterPowerUpIsEnough : resetPorts.rst = true := by decide
theorem witness_AcceptEdgeCapturesTheCommand :
    sampleOf (idleWith encodeOne).inputs = .binary encodeOne ∧ encodeOne.rst = false ∧
    (idleWith encodeOne).busy = false ∧ encodeOne.cmdValid = true := by decide
/-- The op codes of the four latency clauses. -/
theorem witness_AcceptEdgeCapturesTheCommand_ops :
    (portsOf (.encode 0 0 0)).cmdOp = 0b00 ∧ (portsOf (.decode 0 0 0)).cmdOp = 0b01 ∧
    (portsOf (.validate 0 0 0)).cmdOp = 0b10 ∧ (portsOf (.rsv 0 0 0)).cmdOp = 0b11 := by decide
theorem witness_BusyEdgeCountsDown :
    sampleOf (busyWith 5 2 encodeOne).inputs = .binary encodeOne ∧ encodeOne.rst = false ∧
    (busyWith 5 2 encodeOne).busy = true ∧ (busyWith 5 2 encodeOne).remain ≠ 1 := by decide
theorem witness_IdleEdgeChangesNoRegister :
    (∀ p ∈ [idlePorts, idlePorts], p.rst = false ∧ p.cmdValid = false) ∧ State.reset.busy = false ∧
    ({ State.reset with inputs := [.binary idlePorts, .binary idlePorts, .notBinary] } : State).inputs =
      [idlePorts, idlePorts].map .binary ++ [.notBinary] := by decide
theorem witness_BusyBlockIgnoresTheCommandPorts :
    encodeOne.rst = false ∧ idlePorts.rst = false ∧ (busyWith 5 1 idlePorts).busy = true := by decide
theorem witness_BusyAndRspValidChangeOnlyAtTheirEdges :
    sampleOf (idleWith encodeOne).inputs = .binary encodeOne ∧
    sampleOf (busyWith 5 1 encodeOne).inputs = .binary encodeOne := by decide
theorem witness_StepStopsOnlyOnPortsOutsideTheSpec :
    sampleOf State.reset.inputs = .binary idlePorts ∧
    sampleOf ({ State.reset with inputs := [.notBinary] } : State).inputs = .notBinary ∧
    sampleOf ({ State.reset with inputs := [.contended] } : State).inputs = .contended := by decide
/-- A busy state that is coherent: REMAIN 1 is within [1, LAT_MAX] whatever LAT_MAX is. -/
theorem witness_EveryStepKeepsCoherence :
    Coherent (busyWith 5 1 encodeOne) ∧ sampleOf (busyWith 5 1 encodeOne).inputs = .binary encodeOne ∧
    ∃ t, step (busyWith 5 1 encodeOne) = .next t := by
  refine ⟨?_, rfl, ?_⟩
  · have : 1 ≤ Config.latMax := Nat.le_add_left 1 _
    simpa [Coherent, busyWith] using this
  · obtain ⟨r, hr, -⟩ := respond_spec (decodeCmd (captured (taken (busyWith 5 1 encodeOne))))
    exact ⟨_, exec_spec _ _ hr⟩
theorem witness_AcceptedCommandIsAnsweredWithinLatMax :
    State.reset.busy = false ∧ encodeOne.rst = false ∧ encodeOne.cmdValid = true ∧
    (∀ q ∈ List.replicate Config.latMax idlePorts, q.rst = false) ∧
    Config.latMax ≤ (List.replicate Config.latMax idlePorts).length ∧
    ({ State.reset with
        inputs := .binary encodeOne :: ((List.replicate Config.latMax idlePorts).map .binary ++ []) } :
      State).inputs = .binary encodeOne :: ((List.replicate Config.latMax idlePorts).map .binary ++ []) := by
  refine ⟨rfl, rfl, rfl, fun q hq => ?_, by simp, rfl⟩
  rw [(List.mem_replicate.1 hq).2]
  rfl
theorem witness_ResetAbandonsTheCommandInFlight :
    resetWithCommand.rst = true ∧ (∀ q ∈ [idlePorts], q.rst = false ∧ q.cmdValid = false) ∧
    ({ busyWith 5 1 idlePorts with inputs := [.binary resetWithCommand, .binary idlePorts] } : State).inputs =
      .binary resetWithCommand :: ([idlePorts].map .binary ++ []) := by decide
theorem witness_ParsingInvertsRendering : 23 ∈ [8, 13, 18, 23] := by decide
theorem witness_EncodeErrorExactlyForMalformedText :
    (stripHyphens ['0']).length ≠ 32 ∧ parseUuid ['0'] = .error .encodeError := by decide
theorem witness_TextOutsideTheAlphabetIsRejected :
    (List.replicate 21 '1').length ≠ 22 ∧ '0' ∈ '0' :: List.replicate 21 '1' ∧
    '0' ∉ "123456789ABCDEFGHJKLMNPQRSTUVWXYZabcdefghijkmnopqrstuvwxyz".toList := by decide
theorem witness_IsValidExactlyWhenDecodeSucceeds :
    hostIsValid ['0'] = false ∧ hostIsValid (List.replicate 22 '1') = true := by decide +kernel
theorem witness_GeneratorOutputHasTheVersion4Shape : (61 : Nat) < 128 ∧ 61 ∉ [62, 63, 76, 77, 78, 79] := by decide
theorem witness_HostHoldsACommandUntilItIsAccepted :
    (busyWith 5 2 idlePorts).busy = true ∧ State.reset.busy = false := by decide
/-- A clause for a well-formed and one for an ill-formed statement; the greatest `len` that is well formed. -/
theorem witness_CommandStatementDrivesItsFieldsOrIsRejected :
    (Statement.command .rsv none (some (2 ^ 32 - 1)) none).wf = true ∧
    (Statement.command .rsv none (some (2 ^ 32)) none).wf = false := by decide
theorem witness_IdleStatementTakesItsCycles : (0 : Nat) < 1 := by decide
theorem witness_InterruptIsPendingUntilAcceptOrReset :
    sampleOf State.reset.inputs = .binary idlePorts ∧
    (Config.irqWiring = true → irqPending (completed 0 (bare .ok) State.reset) = true) := by
  refine ⟨rfl, fun h => ?_⟩
  simp [irqPending, h, outputs]
theorem witness_InstancesDoNotTouchEachOther :
    [State.reset, State.reset][1]? = some State.reset ∧ step State.reset = .next State.reset := ⟨rfl, rfl⟩

end Sys2Proof.Machine.Tests
end

section
/-! Coherence, the response registers, and the edges at which BUSY and RSP_VALID move (10_state.md). -/

namespace Sys2Proof.Machine

/-! Coherence of a state, by BUSY. -/

theorem coherent_iff_of_busy {s : State} (hb : s.busy = true) :
    Coherent s ↔ s.rspValid = false ∧ 1 ≤ s.remain ∧ s.remain ≤ Config.latMax := by
  simp only [Coherent, hb, if_true]

theorem coherent_iff_of_idle {s : State} (hb : s.busy = false) :
    Coherent s ↔ s.remain = 0 ∧
      if s.rspValid then answers s else s.rspOp = 0 ∧ response s = ⟨0, false, 0, 0, 0⟩ := by
  simp only [Coherent, hb, Bool.false_eq_true, if_false]

/-- Coherence speaks of no input still to come. -/
@[simp] theorem coherent_taken (s : State) : Coherent (taken s) ↔ Coherent s := Iff.rfl

/-! Coherence after each edge of R235. Only the countdown needs the state before it to be coherent. -/

theorem coherent_resetEdge (s : State) : Coherent (resetEdge s) :=
  (coherent_iff_of_idle (resetEdge_busy s)).2 ⟨rfl, rfl, rfl⟩

theorem coherent_acceptEdge (p : Ports) (s : State) : Coherent (acceptEdge p s) :=
  (coherent_iff_of_busy (acceptEdge_busy p s)).2 ⟨rfl, latency_range p.cmdOp (seed (portWord p) s)⟩

theorem coherent_countdownEdge {s : State} (h : Coherent s) (hb : s.busy = true) (h1 : s.remain ≠ 1) :
    Coherent (countdownEdge s) := by
  obtain ⟨hv, hlo, hhi⟩ := (coherent_iff_of_busy hb).1 h
  have hlo' : 1 ≤ s.remain - 1 := by omega
  have hhi' : s.remain - 1 ≤ Config.latMax := by omega
  exact (coherent_iff_of_busy ((countdownEdge_busy s).trans hb)).2 ⟨hv, hlo', hhi'⟩

/-- The response registers answer the captured command when its own response is what completes (R33). -/
theorem answers_completed {s : State} {r : Response} (hr : respond (decodeCmd (captured s)) = some r) :
    answers (completed s.cmdOpL r s) := ⟨rfl, hr⟩

theorem coherent_completed {s : State} {r : Response} (hr : respond (decodeCmd (captured s)) = some r) :
    Coherent (completed s.cmdOpL r s) :=
  (coherent_iff_of_idle (completed_busy _ r s)).2 ⟨rfl, answers_completed hr⟩

/-- Every edge of a coherent state has a next state, and it is coherent. -/
theorem edge_coherent (p : Ports) {s : State} (h : Coherent s) : ∃ t, edge p s = .next t ∧ Coherent t := by
  obtain ⟨-, he⟩ | ⟨-, -, -, he⟩ | ⟨-, -, -, r, hr, he⟩ | ⟨-, hb, h1, he⟩ | ⟨-, -, -, he⟩ := edge_cases p s
  · exact ⟨_, he, coherent_resetEdge s⟩
  · exact ⟨_, he, coherent_acceptEdge p s⟩
  · exact ⟨_, he, coherent_completed hr⟩
  · exact ⟨_, he, coherent_countdownEdge h hb h1⟩
  · exact ⟨_, he, h⟩

/-- A step of a coherent state with binary ports has a next state, and it is coherent. -/
theorem step_coherent {s : State} {p : Ports} (h : Coherent s) (hp : sampleOf s.inputs = .binary p) :
    ∃ t, step s = .next t ∧ Coherent t := by
  rw [step_binary hp]
  exact edge_coherent p ((coherent_taken s).2 h)

/-- Settles O44: a next state comes from binary ports only, and each of the five edges keeps coherence. -/
theorem everyStepKeepsCoherence : Obligations.EveryStepKeepsCoherence := by
  refine ⟨fun s t h ht => ?_, fun s p h hp => step_coherent h hp⟩
  obtain ⟨p, hp, -⟩ := step_next_binary ht
  obtain ⟨u, hu, hc⟩ := step_coherent h hp
  obtain rfl : t = u := Host.Outcome.next.inj (ht.symm.trans hu)
  exact hc

/-- Settles O45: the reset state is idle, holds no response and has every response register 0. -/
theorem resetStateIsCoherent : Obligations.ResetStateIsCoherent := by
  have hc : Coherent State.reset := (coherent_iff_of_idle rfl).2 ⟨rfl, rfl, rfl⟩
  exact ⟨hc, rfl, rfl⟩

/-! What a command answers. -/

/-- Every command answers: executing it in any state writes the response `respond` gives. -/
theorem exec_answers (i : Instr) :
    ∃ r, respond i = some r ∧ r.status.toNat ≤ 4 ∧ ∀ s, exec i s = .next (completed i.op r s) := by
  obtain ⟨r, hr, hu⟩ := respond_spec i
  have h4 : r.status.toNat ≤ 4 := by simpa [statusUnused] using hu
  exact ⟨r, hr, h4, fun s => exec_spec i s hr⟩

/-- DECODE never writes ERR_OPCODE (R202). -/
theorem decodeF_status_le_three (l : Length) (w : CharWord) : (decodeF l w).status.toNat ≤ 3 := by
  rw [decodeF_eq]
  split
  · decide
  split
  · decide
  split
  · decide
  · exact Nat.zero_le 3

/-- The statuses of each operation (R202). -/
theorem respond_status_of_row {i : Instr} {r : Response} (h : respond i = some r) :
    (i.row = .encode → r.status = 0) ∧ (i.row = .decode → r.status.toNat ≤ 3) ∧
    (i.row = .validate → r.status = 0) ∧ (i.row = .rsv → r.status = 4) := by
  cases i with
  | encode v l c =>
    obtain ⟨cs, -, -, -, -, hv⟩ := encodeF_spec v
    obtain rfl := Option.some.inj (hv.symm.trans h)
    simp [Instr.row]
  | decode v l c =>
    obtain rfl := Option.some.inj h
    simp [Instr.row, decodeF_status_le_three]
  | validate v l c =>
    obtain rfl := Option.some.inj h
    simp [Instr.row, validateF, statusCode]
  | rsv v l c =>
    obtain rfl := Option.some.inj h
    simp [Instr.row, statusCode]

/-- Settles O30: a completion writes the status of the command's response. -/
theorem completionWritesOnlyTheStatusesOfItsOperation :
    Obligations.CompletionWritesOnlyTheStatusesOfItsOperation := by
  intro i s
  obtain ⟨r, hr, h4, he⟩ := exec_answers i
  exact ⟨_, he s, h4, respond_status_of_row hr⟩

/-- Settles O32: a completion writes the command's response, which no state enters. -/
theorem responseIsAFunctionOfTheCommand : Obligations.ResponseIsAFunctionOfTheCommand := by
  intro i s s'
  obtain ⟨r, -, -, he⟩ := exec_answers i
  exact ⟨_, _, he s, he s', rfl, rfl, rfl⟩

/-! The edges. -/

theorem edge_of_rst {p : Ports} (s : State) (hr : p.rst = true) : edge p s = .next (resetEdge s) := by
  simp only [edge, hr, if_true]

/-- BUSY and RSP_VALID after each of the five edges (R23, R24). -/
theorem edge_busy_rspValid (p : Ports) (s : State) : ∃ t, edge p s = .next t ∧
    (t.busy, t.rspValid) =
      if p.rst then (false, false)
      else if !s.busy && p.cmdValid then (true, false)
      else if s.busy && s.remain == 1 then (false, true)
      else (s.busy, s.rspValid) := by
  obtain ⟨hr, he⟩ | ⟨hr, hb, hv, he⟩ | ⟨hr, hb, h1, r, -, he⟩ | ⟨hr, hb, h1, he⟩ | ⟨hr, hb, hv, he⟩ :=
    edge_cases p s
  · exact ⟨_, he, by simp [hr]⟩
  · exact ⟨_, he, by simp [hr, hb, hv]⟩
  · exact ⟨_, he, by simp [hr, hb, h1]⟩
  · exact ⟨_, he, by simp [hr, hb, h1]⟩
  · exact ⟨_, he, by simp [hr, hb, hv]⟩

/-- Settles O42: each edge writes the two registers as R235 orders the edges, and `cmd_ready` is NOT BUSY. -/
theorem busyAndRspValidChangeOnlyAtTheirEdges : Obligations.BusyAndRspValidChangeOnlyAtTheirEdges := by
  intro s p hp
  rw [step_binary hp]
  exact ⟨rfl, edge_busy_rspValid p (taken s)⟩

/-- Settles O36: reset comes before every other edge, whatever BUSY and `cmd_valid` are. -/
theorem resetEdgeClearsEveryVisibleRegister : Obligations.ResetEdgeClearsEveryVisibleRegister := by
  intro s p hp hr
  exact ⟨_, (step_binary hp).trans (edge_of_rst _ hr), rfl⟩

end Sys2Proof.Machine
end

section
/-! The MAX tables (20_memory.md). -/

namespace Sys2Proof.Machine

/-- The character table is the digit table through SYM (R107). -/
theorem symbols_romMaxDigits : symbols romMaxDigits = some romMaxChars := by decide

theorem packDigits_romMaxDigits : packDigits romMaxDigits = 0x7e3726deb5e2151639c2b12b381cd54f5 := by decide

theorem packChars_romMaxChars :
    packChars romMaxChars = 0x59635666786b5162364a527a716b356b4632744e4c76 := by decide

/-- Settles O9: lane by lane, the symbols of the digit table are the character table; the digits contract
to 2^128 - 1 in base 58. -/
theorem maximumStringTablesAgree : Obligations.MaximumStringTablesAgree := by
  obtain ⟨hlen, hsym⟩ := symbols_getElem symbols_romMaxDigits
  have hd : romMaxDigits.length = 22 := rfl
  have hc : romMaxChars.length = 22 := hlen.trans hd
  refine ⟨fun i hi => ?_, hd, hc, packDigits_romMaxDigits, packChars_romMaxChars, contract_max⟩
  have hid : i < romMaxDigits.length := hd ▸ hi
  have hic : i < romMaxChars.length := hc ▸ hi
  exact ⟨romMaxDigits[i], romMaxChars[i], List.getElem?_eq_getElem hid, List.getElem?_eq_getElem hic,
    hsym i hid⟩

end Sys2Proof.Machine
end

section
/-! The command word and its bytes: reading undoes writing, and the op field alone names the row
(30_encoding.md). -/

namespace Sys2Proof.Machine

/-! The word. -/

@[simp] theorem decodeCmd_encodeCmd (i : Instr) : decodeCmd (encodeCmd i) = i := by
  rw [encodeCmd, decodeCmd_cmdWord]
  cases i <;> rfl

theorem decodeCmd_of_encodeCmd_eq {i : Instr} {w : CmdWord} (h : encodeCmd i = w) : decodeCmd w = i :=
  h ▸ decodeCmd_encodeCmd i

/-- Reading passes the operand fields on, whatever the op field selects. -/
theorem operands_decodeCmd (w : CmdWord) :
    (decodeCmd w).value = valueField w ∧ (decodeCmd w).len = lenField w ∧
      (decodeCmd w).chars = charsField w := by
  unfold decodeCmd
  split
  · exact ⟨rfl, rfl, rfl⟩
  split
  · exact ⟨rfl, rfl, rfl⟩
  split <;> exact ⟨rfl, rfl, rfl⟩

@[simp] theorem encodeCmd_decodeCmd (w : CmdWord) : encodeCmd (decodeCmd w) = w := by
  obtain ⟨hv, hl, hc⟩ := operands_decodeCmd w
  rw [encodeCmd, op_decodeCmd, hv, hl, hc, cmdWord_fields]

/-! The bytes. -/

/-- Only the first 43 bytes are read, and they are read as the number they hold. -/
theorem decodeBytes_of_take {bs : List Byte} {n : Nat} (h : bs.take cmdBytes = bytesOfNat cmdBytes n) :
    decodeBytes bs =
      if 2 ^ 338 ≤ n % 256 ^ cmdBytes then .error .paddingNotZero
      else .ok (decodeCmd (BitVec.ofNat 338 n), bs.drop cmdBytes) := by
  have hlen : ¬ bs.length < cmdBytes := by
    have := congrArg List.length h
    rw [List.length_take, bytesOfNat_length] at this
    omega
  have hword : BitVec.ofNat 338 (n % 256 ^ cmdBytes) = BitVec.ofNat 338 n :=
    BitVec.eq_of_toNat_eq (by
      rw [BitVec.toNat_ofNat, BitVec.toNat_ofNat, cmdBytes]
      omega)
  rw [decodeBytes, if_neg hlen, h, natOfBytes_bytesOfNat, hword]

theorem decodeBytes_encode_append (i : Instr) (rest : List Byte) :
    decodeBytes (encode i ++ rest) = .ok (i, rest) := by
  have hlen : (encode i).length = cmdBytes := bytesOfNat_length _ _
  have htake : (encode i ++ rest).take cmdBytes = bytesOfNat cmdBytes (encodeCmd i).toNat := List.take_left' hlen
  have hfits : ¬ 2 ^ 338 ≤ (encodeCmd i).toNat % 256 ^ cmdBytes := by
    have hlt := (encodeCmd i).isLt
    have hle := Nat.mod_le (encodeCmd i).toNat (256 ^ cmdBytes)
    omega
  rw [decodeBytes_of_take htake, if_neg hfits, List.drop_left' hlen,
    BitVec.ofNat_toNat, BitVec.setWidth_eq, decodeCmd_encodeCmd]

/-- A table word that stands for a command stands for that of its low 338 bits. -/
theorem decodeTableWord_some {nbits w : Nat} {i : Instr} (h : decodeTableWord nbits w = some i) :
    i = decodeCmd (BitVec.ofNat 338 (w % 2 ^ nbits)) := by
  have htake : ∀ k n, (bytesOfNat (max cmdBytes k) n).take cmdBytes = bytesOfNat cmdBytes n := fun k n => by
    rw [← Nat.add_sub_cancel' (Nat.le_max_left cmdBytes k), bytesOfNat_take]
  rw [decodeTableWord, decodeBytes_of_take (htake _ _)] at h
  split at h
  · next j _ hj =>
    obtain rfl := Option.some.inj h
    split at hj
    · cases hj
    · exact (Prod.mk.inj (Except.ok.inj hj)).1.symm
  · cases h

/-- Settles O1: the word keeps op and operands side by side, and 43 bytes hold every bit of it. -/
theorem encodedCommandDecodesBack : Obligations.EncodedCommandDecodesBack :=
  fun i _ => ⟨decodeCmd_encodeCmd i, decodeBytes_encode_append i⟩

/-- Settles O2: the character lanes lie in the low 176 bits, so the lanes of the word are those of chars. -/
theorem commandWordHoldsTheFieldsSideBySide : Obligations.CommandWordHoldsTheFieldsSideBySide := by
  refine ⟨fun op v l c => ⟨opField_cmdWord op v l c, valueField_cmdWord op v l c, lenField_cmdWord op v l c,
    charsField_cmdWord op v l c, fun i _ => ?_⟩, cmdWord_fields⟩
  exact BitVec.extractLsb'_append_eq_of_add_le (by omega)

/-- Settles O3: the four op codes are the four branches of the reading. -/
theorem opFieldAloneSelectsTheOperation : Obligations.OpFieldAloneSelectsTheOperation := by
  refine fun w => ⟨fun h => ?_, fun h => ?_, fun h => ?_, fun h => ?_, encodeCmd_decodeCmd w⟩ <;>
    simp [decodeCmd, h]

/-- Settles O5: each word is the one its command is written as. -/
theorem testVectorWordsDecode : Obligations.TestVectorWordsDecode :=
  ⟨decodeCmd_of_encodeCmd_eq (by decide +kernel), decodeCmd_of_encodeCmd_eq (by decide +kernel),
    decodeCmd_of_encodeCmd_eq (by decide +kernel), decodeCmd_of_encodeCmd_eq (by decide +kernel)⟩

/-! The rows of the opcode table. -/

/-- Under the mask, a word is its op field alone, in bits 337:336. -/
theorem and_rowMask (w : CmdWord) : w &&& rowMask = (opField w).setWidth 338 <<< 336 := by
  have hmask : ∀ k < 338, rowMask.getLsbD k = decide (336 ≤ k) := by decide +kernel
  refine BitVec.eq_of_getLsbD_eq fun k hk => ?_
  rw [BitVec.getLsbD_and, hmask k hk, BitVec.getLsbD_shiftLeft, BitVec.getLsbD_setWidth, opField,
    BitVec.getLsbD_extractLsb']
  by_cases h : 336 ≤ k
  · have h2 : k - 336 < 2 := by omega
    have h338 : k - 336 < 338 := by omega
    simp [h, h2, h338, hk, Nat.not_lt.2 h]
  · simp [h, Nat.not_le.1 h]

theorem rowSelects_iff (r : OpName) (w : CmdWord) : rowSelects r w = true ↔ w &&& rowMask = rowMatch r := by
  simp only [rowSelects, beq_iff_eq]

/-- A row's match is the op code of its commands, in bits 337:336. -/
theorem rowMatch_row (i : Instr) : rowMatch i.row = i.op.setWidth 338 <<< 336 := by
  have hrow : ∀ r : OpName, rowMatch r = (commandOf r 0 0 0).op.setWidth 338 <<< 336 := by
    rintro (_ | _ | _ | _) <;> decide +kernel
  have hop : (commandOf i.row 0 0 0).op = i.op := by cases i <;> rfl
  rw [hrow, hop]

theorem rowSelects_decodeCmd_row (w : CmdWord) : rowSelects (decodeCmd w).row w = true := by
  rw [rowSelects_iff, and_rowMask, rowMatch_row, op_decodeCmd]

theorem rowMatch_injective : Function.Injective rowMatch := by
  intro r r'
  cases r <;> cases r' <;> decide +kernel

/-- Settles O4: the word's own row selects it, and two rows that select one word have one match. -/
theorem everyWordSelectsExactlyOneRow : Obligations.EveryWordSelectsExactlyOneRow := by
  refine fun w => ⟨rowSelects_decodeCmd_row w, fun r hr => rowMatch_injective ?_⟩
  exact ((rowSelects_iff r w).1 hr).symm.trans ((rowSelects_iff _ w).1 (rowSelects_decodeCmd_row w))

/-! The edge, one lemma for each case of R235 (`edge_of_rst` is the reset edge). -/

theorem edge_accept {p : Ports} {s : State} (hr : p.rst = false) (hb : s.busy = false)
    (hv : p.cmdValid = true) : edge p s = .next (acceptEdge p s) := by
  simp [edge, hr, hb, hv]

/-- The completion edge executes the captured command (R238). -/
theorem edge_completion {p : Ports} {s : State} (hr : p.rst = false) (hb : s.busy = true)
    (h1 : s.remain = 1) : edge p s = exec (decodeCmd (captured s)) s := by
  simp [edge, hr, hb, h1]

theorem edge_countdown {p : Ports} {s : State} (hr : p.rst = false) (hb : s.busy = true)
    (h1 : s.remain ≠ 1) : edge p s = .next (countdownEdge s) := by
  simp [edge, hr, hb, h1]

theorem edge_hold {p : Ports} {s : State} (hr : p.rst = false) (hb : s.busy = false)
    (hv : p.cmdValid = false) : edge p s = .next s := by
  simp [edge, hr, hb, hv]

/-! Executing a command. -/

/-- A placed word leaves the coming edge to an idle host. -/
theorem sampleOf_accepted (w : CmdWord) (s : State) :
    sampleOf (accepted w s).inputs = .binary idlePorts := by
  rw [accepted_inputs]
  cases s.inputs <;> rfl

/-- Settles O35: placing a word captures it one edge before its completion. -/
theorem placedCommandRunsAtTheNextStep : Obligations.PlacedCommandRunsAtTheNextStep := by
  intro s nbits w i h
  rw [State.withFetchWord, step_binary (sampleOf_accepted _ _), edge_completion rfl rfl rfl,
    captured_taken, captured_accepted, ← decodeTableWord_some h]

/-- Commands of one op code and one response are executed alike. -/
theorem exec_eq_of_respond_eq {i j : Instr} (hresp : respond i = respond j) (hop : i.op = j.op) (s : State) :
    ∃ t, exec i s = .next t ∧ exec j s = .next t := by
  obtain ⟨r, hr, -, he⟩ := exec_answers i
  exact ⟨_, he s, hop ▸ exec_spec j s (hresp ▸ hr)⟩

theorem decodeF_of_length_ne {l : Length} (h : l ≠ 22) (c : CharWord) : decodeF l c = bare .errLength := by
  rw [decodeF_eq, if_pos h]

theorem verdict_of_formatOk_false {l : Length} {c : CharWord} (h : formatOk l c = false) :
    verdict l c = false := by
  rw [verdict, ← formatOk, h, Bool.false_and]

theorem formatOk_of_length_ne {l : Length} (h : l ≠ 22) (c : CharWord) : formatOk l c = false := by
  have hl : lengthOk l = false := Bool.eq_false_iff.2 fun hok => h ((lengthOk_iff l).1 hok)
  rw [formatOk, hl, Bool.false_and]

theorem validateF_of_formatOk_false {l : Length} {c : CharWord} (h : formatOk l c = false) :
    validateF l c = ⟨0, false, 0, 0, 0⟩ := by
  rw [validateF, verdict_of_formatOk_false h]
  rfl

/-- Settles O15: the response of each operation reads no don't-care field, by `respond` and, at a length
other than 22, by the length test that both operations make first. -/
theorem dontCareFieldsHaveNoEffect : Obligations.DontCareFieldsHaveNoEffect := by
  intro v v' l l' c c' s
  refine ⟨exec_eq_of_respond_eq rfl rfl s, exec_eq_of_respond_eq rfl rfl s, exec_eq_of_respond_eq rfl rfl s,
    fun hl => ?_, exec_eq_of_respond_eq rfl rfl s⟩
  have hd : respond (.decode v l c) = respond (.decode v' l c') := by
    rw [respond, respond, decodeF_of_length_ne hl, decodeF_of_length_ne hl]
  have hv : respond (.validate v l c) = respond (.validate v' l c') := by
    rw [respond, respond, validateF_of_formatOk_false (formatOk_of_length_ne hl c),
      validateF_of_formatOk_false (formatOk_of_length_ne hl c')]
  exact ⟨exec_eq_of_respond_eq hd rfl s, exec_eq_of_respond_eq hv rfl s⟩

end Sys2Proof.Machine
end

section
/-! Texts on the lanes: a text that DECODE or VALIDATE accepts is 22 alphabet characters (R76, R77, R106). -/

namespace Sys2Proof.Machine

/-! The lanes of a text. -/

theorem textLength_eq_iff (s : List Char) : textLength s = 22 ↔ s.length = 22 := by
  rw [textLength, ← BitVec.toNat_inj]
  have h22 : (22 : Length).toNat = 22 := rfl
  rw [BitVec.toNat_ofNat, h22]
  omega

/-- A text of 22 characters fills the lanes. -/
theorem lanes8_packText {s : List Char} (h : s.length = 22) : lanes8 (packText s) = s.map charByte := by
  have hlen : (s.map charByte).length = 22 := by rw [List.length_map, h]
  rw [packText, List.take_left' hlen, lanes8_packChars hlen]

/-- The alphabet as a text (R100). -/
def alphabetText : List Char := "123456789ABCDEFGHJKLMNPQRSTUVWXYZabcdefghijkmnopqrstuvwxyz".toList

/-- The alphabet's codes, read back as characters, are the alphabet (R100). -/
theorem mem_alphabetText_of_member : ∀ b : Byte, member b = true → Char.ofNat b.toNat ∈ alphabetText := by
  decide +kernel

/-- A character whose lane value is a member is in the alphabet: no non-ASCII character is, since 0x80 is
no member. -/
theorem mem_alphabetText_of_member_charByte {ch : Char} (h : member (charByte ch) = true) :
    ch ∈ alphabetText := by
  rw [charByte] at h
  split at h
  · next hlt =>
    have hb : (BitVec.ofNat 8 ch.toNat).toNat = ch.toNat := Nat.mod_eq_of_lt (by omega)
    have := mem_alphabetText_of_member _ h
    rwa [hb, Char.ofNat_toNat] at this
  · exact absurd h (by decide)

/-- A text whose command passes the length and symbol tests is 22 alphabet characters. -/
theorem text_of_formatOk {s : List Char} (h : formatOk (textLength s) (packText s) = true) :
    s.length = 22 ∧ ∀ ch ∈ s, ch ∈ alphabetText := by
  obtain ⟨hl, hm⟩ := (Bool.and_eq_true _ _).mp h
  have h22 : s.length = 22 := (textLength_eq_iff s).1 ((lengthOk_iff _).1 hl)
  rw [allMembers, lanes8_packText h22, List.all_eq_true] at hm
  exact ⟨h22, fun ch hch => mem_alphabetText_of_member_charByte (hm _ (List.mem_map_of_mem hch))⟩

/-! What the text operations answer when the two tests fail. -/

/-- DECODE reports the failed test as its status (R145). -/
theorem decodeF_status_of_formatOk_false {l : Length} {c : CharWord} (h : formatOk l c = false) :
    (decodeF l c).status ≠ 0 := by
  rw [decodeF_eq]
  split
  · decide
  split
  · decide
  next hl hm =>
    have hl' : l = 22 := not_not.1 hl
    simp [formatOk, lengthOk, allMembers, hl', hm] at h

theorem hostIsValid_eq_verdict (s : List Char) :
    hostIsValid s = verdict (textLength s) (packText s) := rfl

theorem hostDecode_of_status_ne {s : List Char} (h : (decodeF (textLength s) (packText s)).status ≠ 0) :
    hostDecode s = .error .decodeError := by
  simp only [hostDecode, decodeCommand, respond]
  exact if_neg h

/-- Settles O52: such a text fails the length or the symbol test, which both operations make. -/
theorem textOutsideTheAlphabetIsRejected : Obligations.TextOutsideTheAlphabetIsRejected := by
  intro s hs
  have hf : formatOk (textLength s) (packText s) = false := by
    refine Bool.eq_false_iff.2 fun hok => ?_
    obtain ⟨hlen, hall⟩ := text_of_formatOk hok
    obtain hne | ⟨ch, hch, hout⟩ := hs
    · exact hne hlen
    · exact hout (hall ch hch)
  exact ⟨(hostIsValid_eq_verdict s).trans (verdict_of_formatOk_false hf),
    hostDecode_of_status_ne (decodeF_status_of_formatOk_false hf)⟩

end Sys2Proof.Machine
end

section
/-! Statements of a host program (R81, R82): what a command statement issues, how long a command is
presented, and the edges that an idle takes. -/

namespace Sys2Proof.Machine

/-! Command statements. -/

@[simp] theorem row_commandOf (op : OpName) (v : UuidValue) (l : Length) (c : CharWord) :
    (commandOf op v l c).row = op := by cases op <;> rfl
@[simp] theorem value_commandOf (op : OpName) (v : UuidValue) (l : Length) (c : CharWord) :
    (commandOf op v l c).value = v := by cases op <;> rfl
@[simp] theorem len_commandOf (op : OpName) (v : UuidValue) (l : Length) (c : CharWord) :
    (commandOf op v l c).len = l := by cases op <;> rfl
@[simp] theorem chars_commandOf (op : OpName) (v : UuidValue) (l : Length) (c : CharWord) :
    (commandOf op v l c).chars = c := by cases op <;> rfl

/-- A `len` that fits is driven as it is written. -/
theorem toNat_ofNat_of_lenFits {l : Option Nat} (h : Statement.lenFits l = true) :
    (BitVec.ofNat 32 (l.getD 0)).toNat = l.getD 0 := by
  cases l with
  | none => rfl
  | some n => exact Nat.mod_eq_of_lt (of_decide_eq_true h)

/-- Settles O59: a well-formed `len` fits 32 bits, so it does not wrap. -/
theorem commandStatementDrivesItsFieldsOrIsRejected :
    Obligations.CommandStatementDrivesItsFieldsOrIsRejected := by
  refine fun op v l c => ⟨fun hwf => ?_, fun hwf => ?_⟩
  · obtain ⟨hlen, -⟩ := (Bool.and_eq_true _ _).mp hwf
    exact ⟨_, if_pos hwf, row_commandOf .., value_commandOf ..,
      (congrArg BitVec.toNat (len_commandOf ..)).trans (toNat_ofNat_of_lenFits hlen), chars_commandOf ..⟩
  · exact if_neg (Bool.eq_false_iff.1 hwf)

/-! Presenting a command. -/

@[simp] theorem outputs_cmdReady (s : State) : (outputs s).cmdReady = !s.busy := rfl

theorem drive_issue_of_not_ready (valid a : Bool) (i : Instr) (rest : List HostAct) :
    drive false valid (.issue i :: rest) a = (portsOf i, .issue i :: rest, a) := rfl

theorem drive_issue_of_ready (valid a : Bool) (i : Instr) (rest : List HostAct) :
    drive true valid (.issue i :: rest) a = (portsOf i, rest, true) := rfl

/-- No edge of a busy block but reset changes the captured command. -/
theorem edge_busy_captured {p : Ports} {s : State} (hr : p.rst = false) (hb : s.busy = true) :
    ∃ t, edge p s = .next t ∧ captured t = captured s := by
  obtain ⟨hr', -⟩ | ⟨-, hb', -⟩ | ⟨-, -, -, r, -, he⟩ | ⟨-, -, -, he⟩ | ⟨-, hb', -⟩ := edge_cases p s
  · simp [hr] at hr'
  · simp [hb] at hb'
  · exact ⟨_, he, captured_completed ..⟩
  · exact ⟨_, he, captured_countdownEdge s⟩
  · simp [hb] at hb'

/-- Settles O54: the host reads `cmd_ready` as NOT BUSY, so the edge at which it goes on is the accept edge. -/
theorem hostHoldsACommandUntilItIsAccepted : Obligations.HostHoldsACommandUntilItIsAccepted := by
  refine fun i todo a s => ⟨fun v => ⟨drive_issue_of_not_ready v a i todo, drive_issue_of_ready v a i todo⟩,
    ⟨rfl, rfl, rfl⟩, fun hb => ?_, fun hb => ?_⟩
  · have hd : drive (outputs s).cmdReady (outputs s).rspValid (.issue i :: todo) a =
        (portsOf i, .issue i :: todo, a) := by
      rw [outputs_cmdReady, hb, Bool.not_true, drive_issue_of_not_ready]
    obtain ⟨t, ht, hc⟩ := edge_busy_captured (p := portsOf i)
      (s := taken { s with inputs := [.binary (portsOf i)] }) rfl hb
    exact ⟨_, systemStep_of_step hd ((step_binary rfl).trans ht), rfl, hc⟩
  · have hd : drive (outputs s).cmdReady (outputs s).rspValid (.issue i :: todo) a =
        (portsOf i, todo, true) := by
      rw [outputs_cmdReady, hb, Bool.not_false, drive_issue_of_ready]
    have he := edge_accept (p := portsOf i) (s := taken { s with inputs := [.binary (portsOf i)] }) rfl hb rfl
    exact ⟨_, systemStep_of_step hd ((step_binary rfl).trans he), rfl, rfl, rfl⟩

/-! Idling. -/

/-- An edge neither reads nor writes the samples still to come. -/
theorem edge_withInputs (p : Ports) (s : State) :
    ∃ t : State, ∀ xs, edge p { s with inputs := xs } = .next { t with inputs := xs } := by
  obtain ⟨hr, -⟩ | ⟨hr, hb, hv, -⟩ | ⟨hr, hb, h1, -⟩ | ⟨hr, hb, h1, -⟩ | ⟨hr, hb, hv, -⟩ := edge_cases p s
  · exact ⟨resetEdge s, fun _ => edge_of_rst _ hr⟩
  · exact ⟨acceptEdge p s, fun _ => edge_accept hr hb hv⟩
  · obtain ⟨r, -, -, he⟩ := exec_answers (decodeCmd (captured s))
    exact ⟨completed (decodeCmd (captured s)).op r s, fun xs =>
      (edge_completion (s := { s with inputs := xs }) hr hb h1).trans (he _)⟩
  · exact ⟨countdownEdge s, fun _ => edge_countdown hr hb h1⟩
  · exact ⟨s, fun _ => edge_hold hr hb hv⟩

/-- A step is the edge of its first sample and leaves the others. -/
theorem step_withInputs (p : Ports) (s : State) :
    ∃ t : State, ∀ xs, step { s with inputs := .binary p :: xs } = .next { t with inputs := xs } := by
  obtain ⟨t, ht⟩ := edge_withInputs p s
  exact ⟨t, fun xs => (step_binary rfl).trans (ht xs)⟩

theorem drive_idle_succ (ready valid a : Bool) (k : Nat) (rest : List HostAct) :
    drive ready valid (.idle (k + 1) :: rest) a = (idlePorts, .idle k :: rest, false) := rfl

/-- `j` edges of an idle of `j + m` cycles leave an idle of `m` cycles, and move the block as `j` idle
samples do. -/
theorem systemRun_idle (j m : Nat) (a : Bool) (s : State) :
    ∃ (b : Bool) (t : State), systemRun j ⟨[.idle (j + m)], a, s⟩ = .next ⟨[.idle m], b, t⟩ ∧
      Sys2Proof.core.run j { s with inputs := List.replicate j (.binary idlePorts) } =
        .next { t with inputs := [] } := by
  induction j generalizing a s with
  | zero => exact ⟨a, s, by rw [Nat.zero_add]; rfl, rfl⟩
  | succ j ih =>
    obtain ⟨u, hu⟩ := step_withInputs idlePorts s
    obtain ⟨b, t, hsys, hrun⟩ := ih false { u with inputs := [] }
    refine ⟨b, t, ?_, (core_run_succ j (hu _)).trans hrun⟩
    rw [Nat.succ_add, systemRun_succ_of_next j (systemStep_of_step (drive_idle_succ ..) (hu [])), hsys]

/-- Settles O58: an idle with cycles left is not settled, one with none is, and awaits nothing. -/
theorem idleStatementTakesItsCycles : Obligations.IdleStatementTakesItsCycles := by
  refine fun k a s => ⟨fun j hj => ?_, ?_⟩
  · obtain ⟨m, rfl⟩ := Nat.exists_eq_add_of_lt hj
    obtain ⟨b, t, hsys, -⟩ := systemRun_idle j (m + 1) a s
    exact ⟨_, hsys, rfl⟩
  · obtain ⟨b, t, hsys, hrun⟩ := systemRun_idle k 0 a s
    exact ⟨_, hsys, rfl, hrun⟩

end Sys2Proof.Machine
end

section
/-! The alphabet (40_alphabet.md): SYM, DIG and MEMBER, and what a character outside the alphabet does to
DECODE and VALIDATE. -/

namespace Sys2Proof.Machine

/-! Characters outside the alphabet. -/

/-- The greatest member is `z`, 0x7A: the last range ends at digit 57 (R104). -/
theorem toNat_le_of_member {c : Byte} (h : member c = true) : c.toNat ≤ 0x7A := by
  have hoff := dig_offset c h
  have hlt := dig_lt c
  omega

/-- `0`, `O`, `I` and `l` fall between the ranges of R105. -/
theorem member_excluded : ∀ c ∈ [0x30#8, 0x4F#8, 0x49#8, 0x6C#8], member c = false := by decide

/-- The characters of R106 are no members. -/
theorem member_of_excluded_or_ge {c : Byte} (h : c ∈ [0x30#8, 0x4F#8, 0x49#8, 0x6C#8] ∨ 0x80 ≤ c.toNat) :
    member c = false := by
  obtain hex | hge := h
  · exact member_excluded c hex
  · refine Bool.eq_false_iff.2 fun hm => ?_
    have hle := toNat_le_of_member hm
    omega

/-! The format check: length, then symbols (R165). -/

theorem formatOk_iff (l : Length) (c : CharWord) :
    formatOk l c = true ↔ l = 22 ∧ ∀ i < 22, member (lane8 c i) = true := by
  rw [formatOk, Bool.and_eq_true, lengthOk_iff, allMembers, allMembers_iff]

theorem formatOk_of_lane_not_member {c : CharWord} {i : Nat} (hi : i < 22) (h : member (lane8 c i) = false)
    (l : Length) : formatOk l c = false := by
  refine Bool.eq_false_iff.2 fun hok => ?_
  obtain ⟨-, hall⟩ := (formatOk_iff l c).1 hok
  exact Bool.eq_false_iff.1 h (hall i hi)

/-- DECODE reports the test that failed: the length first, then the symbols (R145). -/
theorem decodeF_of_formatOk_false {l : Length} {c : CharWord} (h : formatOk l c = false) :
    decodeF l c = bare .errLength ∨ decodeF l c = bare .errSymbol := by
  by_cases hl : l = 22
  · have hall : (lanes8 c).all member = false :=
      Bool.eq_false_iff.2 fun hm =>
        Bool.eq_false_iff.1 h ((formatOk_iff l c).2 ⟨hl, (allMembers_iff c).1 hm⟩)
    exact .inr (by rw [decodeF_eq, if_neg (not_not.2 hl), if_pos hall])
  · exact .inl (decodeF_of_length_ne hl c)

/-- Settles O24: such a lane fails the format check at every length, and both operations make that check. -/
theorem excludedCharactersAreRejectedAtAnyLength : Obligations.ExcludedCharactersAreRejectedAtAnyLength := by
  intro v l c s i hi hlane
  have hf : formatOk l c = false := formatOk_of_lane_not_member hi (member_of_excluded_or_ge hlane) l
  refine ⟨⟨_, exec_spec (.validate v l c) s rfl, verdict_of_formatOk_false hf⟩,
    _, exec_spec (.decode v l c) s rfl, ?_⟩
  rw [completed_rspStatus]
  obtain he | he := decodeF_of_formatOk_false hf
  · exact .inl (congrArg Response.status he)
  · exact .inr (congrArg Response.status he)

/-! SYM, DIG and MEMBER. -/

/-- Settles O6: both sides are the 58 rows of R100, compared row by row. -/
theorem alphabetIsTheOrderedSequence : Obligations.AlphabetIsTheOrderedSequence :=
  ⟨by decide, rfl⟩

/-- Settles O7, from the laws of the tables. -/
theorem symAndDigAreInverse : Obligations.SymAndDigAreInverse :=
  ⟨fun _ => sym_of_lt, fun _ => sym_dig, fun c h => dig_of_not_member ((member_eq c).trans h), member_eq,
    fun _ => sym_of_ge⟩

/-- Settles O8: DIG gives the two digits back, and it ascends on the members. -/
theorem symbolCodesAscendWithTheirDigits : Obligations.SymbolCodesAscendWithTheirDigits := by
  intro a b hab hb
  have ha : a.toNat < 58 := lt_trans (BitVec.lt_def.1 hab) hb
  obtain ⟨x, hx, hdx⟩ := sym_of_lt ha
  obtain ⟨y, hy, hdy⟩ := sym_of_lt hb
  have hmx : member x = true := by rw [member_eq, hdx]
  have hmy : member y = true := by rw [member_eq, hdy]
  have hdig : (dig x).digit < (dig y).digit := by rwa [hdx, hdy]
  exact ⟨x, y, hx, hy, (dig_lt_iff x y hmx hmy).1 hdig⟩

end Sys2Proof.Machine
end

section
/-! ENCODE (41_encode.md): its digits and characters lane by lane, the source's loop, and the strings that are
some value's characters. -/

namespace Sys2Proof.Machine

/-! What ENCODE answers. -/

/-- The characters of ENCODE's response: the symbols of the value's digits (R120). -/
def encodedChars (n : UuidValue) : CharWord := packChars ((symbols (encodeDigits n)).getD [])

theorem encodeF_eq (n : UuidValue) :
    encodeF n = some ⟨0, false, 0, packDigits (encodeDigits n), encodedChars n⟩ := by
  obtain ⟨cs, hcs, -, -, -, hr⟩ := encodeF_spec n
  rw [hr, encodedChars, hcs, Option.getD_some]

theorem exec_encode (n : UuidValue) (l : Length) (c : CharWord) (s : State) :
    exec (.encode n l c) s =
      .next (completed 0b00 ⟨0, false, 0, packDigits (encodeDigits n), encodedChars n⟩ s) :=
  exec_spec (.encode n l c) s (encodeF_eq n)

theorem symbols_encodeDigits (n : UuidValue) : symbols (encodeDigits n) = some (lanes8 (encodedChars n)) := by
  obtain ⟨cs, hcs, hlen, -⟩ := encodeF_spec n
  rw [encodedChars, hcs, Option.getD_some, lanes8_packChars hlen]

theorem all_member_encodedChars (n : UuidValue) : (lanes8 (encodedChars n)).all member = true := by
  obtain ⟨cs, hcs, -, hm, -⟩ := encodeF_spec n
  rwa [← Option.some.inj (hcs.symm.trans (symbols_encodeDigits n))]

theorem map_dig_encodedChars (n : UuidValue) :
    (lanes8 (encodedChars n)).map (fun c => (dig c).digit) = encodeDigits n := by
  obtain ⟨cs, hcs, -, -, hd, -⟩ := encodeF_spec n
  rwa [← Option.some.inj (hcs.symm.trans (symbols_encodeDigits n))]

/-! The lanes. -/

theorem lane6_encodeDigits (n : UuidValue) {i : Nat} (hi : i < 22) :
    (lane6 (packDigits (encodeDigits n)) i).toNat = n.toNat / 58 ^ (21 - i) % 58 := by
  rw [lane6_packDigits (encodeDigits_length n) hi, encodeDigits_getElem]

theorem sym_lane6_encodeDigits (n : UuidValue) {i : Nat} (hi : i < 22) :
    sym (lane6 (packDigits (encodeDigits n)) i) = some (lane8 (encodedChars n) i) := by
  obtain ⟨_, hsym⟩ := symbols_getElem (symbols_encodeDigits n)
  rw [lane6_packDigits (encodeDigits_length n) hi, hsym, lanes8_getElem]

/-- Lane 0 of a 128-bit value is its quotient by 58^21: the value has no digit above that place (R122). -/
theorem lane6_encodeDigits_zero (n : UuidValue) :
    (lane6 (packDigits (encodeDigits n)) 0).toNat = n.toNat / 58 ^ 21 := by
  rw [lane6_encodeDigits n (by decide)]
  have := n.isLt
  omega

theorem sum_lane6_encodeDigits (n : UuidValue) :
    ∑ i ∈ Finset.range 22, (lane6 (packDigits (encodeDigits n)) i).toNat * 58 ^ (21 - i) = n.toNat := by
  calc ∑ i ∈ Finset.range 22, (lane6 (packDigits (encodeDigits n)) i).toNat * 58 ^ (21 - i)
    _ = contract 58 0 ((lanes6 (packDigits (encodeDigits n))).map BitVec.toNat) := by
      rw [lanes6, List.map_map]
      exact (contract_sum 58 22 fun i => (lane6 (packDigits (encodeDigits n)) i).toNat).symm
    _ = n.toNat := by rw [lanes6_packDigits (encodeDigits_length n), contract_encodeDigits]

/-- `1` is the zero digit's symbol and no other's (R100). -/
theorem sym_eq_one_iff : ∀ d : Digit, sym d = some 0x31 ↔ d = 0 := by decide

theorem lane8_encodedChars_zero_iff (n : UuidValue) : lane8 (encodedChars n) 0 = 0x31 ↔ n.toNat < 58 ^ 21 := by
  have hsym := sym_lane6_encodeDigits n (i := 0) (by decide)
  calc lane8 (encodedChars n) 0 = 0x31
    _ ↔ lane6 (packDigits (encodeDigits n)) 0 = 0 := by rw [← sym_eq_one_iff, hsym, Option.some_inj]
    _ ↔ n.toNat / 58 ^ 21 = 0 := by rw [← BitVec.toNat_inj, lane6_encodeDigits_zero]; rfl
    _ ↔ n.toNat < 58 ^ 21 := Nat.div_eq_zero_iff_lt (by decide)

/-- Settles O10: the response of ENCODE read lane by lane, and completion writes nothing else. -/
theorem encodeCompletesWithTheExpansion : Obligations.EncodeCompletesWithTheExpansion :=
  fun n l c s => ⟨_, exec_encode n l c s, fun _ => lane6_encodeDigits n, fun _ => sym_lane6_encodeDigits n, rfl⟩

/-- Settles O11: the digits contract to the value, and 2^128 < 32 * 58^21 bounds the first. -/
theorem encodeDigitsRepresentTheValue : Obligations.EncodeDigitsRepresentTheValue := by
  refine fun n l c s => ⟨_, exec_encode n l c s, fun i hi => ?_, ?_, sum_lane6_encodeDigits n⟩
  · rw [completed_rspDigits, lane6_encodeDigits n hi]
    exact Nat.mod_lt _ (by decide)
  · rw [completed_rspDigits, lane6_encodeDigits_zero]
    have := n.isLt
    omega

/-- Settles O13: lane 0 is the quotient by 58^21, and only the zero digit is written `1`. -/
theorem twentyTwoPositionsAreJustEnough : Obligations.TwentyTwoPositionsAreJustEnough :=
  ⟨by decide, by decide, by decide, by decide, by decide, by decide,
    fun n l c s => ⟨_, exec_encode n l c s, lane8_encodedChars_zero_iff n⟩⟩

/-! Fixed values. -/

theorem encodesTo_of_unpackText {n : Nat} {text : String}
    (h : unpackText (encodedChars (BitVec.ofNat 128 n)) = text.toList) : EncodesTo n text :=
  fun l c s => ⟨_, exec_encode _ l c s, rfl, h⟩

/-- Settles O12: the characters of the four values are evaluated. -/
theorem encodeBoundaryResults : Obligations.EncodeBoundaryResults :=
  ⟨encodesTo_of_unpackText (by decide +kernel), encodesTo_of_unpackText (by decide +kernel),
    encodesTo_of_unpackText (by decide +kernel), encodesTo_of_unpackText (by decide +kernel)⟩

/-! The source's loop (R121). -/

@[simp] theorem sourceEmit_zero (fuel : Nat) : sourceEmit fuel 0 = [] := by cases fuel <;> rfl

theorem sourceEmit_succ_of_ne_zero (fuel : Nat) {n : Nat} (h : n ≠ 0) :
    sourceEmit (fuel + 1) n = n % 58 :: sourceEmit fuel (n / 58) := if_neg h

theorem expand_zero_value (b k : Nat) : expand b k 0 [] = List.replicate k 0 := by
  induction k with
  | zero => rfl
  | succ k ih => rw [expand_succ, Nat.zero_div, Nat.zero_mod, ih, List.replicate_succ']

/-- The emitted digits, reversed and padded to a width that holds the value, are the fixed loop's. -/
theorem pad_reverse_sourceEmit {k fuel n : Nat} (hfuel : k ≤ fuel) (hn : n < 58 ^ k) :
    List.replicate (k - (sourceEmit fuel n).length) 0 ++ (sourceEmit fuel n).reverse = expand 58 k n [] := by
  induction k generalizing fuel n with
  | zero =>
    obtain rfl : n = 0 := by simpa using hn
    rw [sourceEmit_zero]
    rfl
  | succ k ih =>
    obtain ⟨fuel, rfl⟩ := Nat.exists_eq_add_one_of_ne_zero (Nat.ne_zero_of_lt hfuel)
    by_cases h0 : n = 0
    · rw [h0, sourceEmit_zero, expand_zero_value, List.reverse_nil, List.append_nil, List.length_nil, Nat.sub_zero]
    · have hdiv : n / 58 < 58 ^ k := Nat.div_lt_of_lt_mul (by rwa [← Nat.pow_succ'])
      rw [sourceEmit_succ_of_ne_zero fuel h0, List.length_cons, Nat.add_sub_add_right, List.reverse_cons,
        ← List.append_assoc, ih (Nat.le_of_succ_le_succ hfuel) hdiv, expand_succ]

/-- Settles O14: 22 places hold every value. -/
theorem sourceLoopGivesTheSameDigits : Obligations.SourceLoopGivesTheSameDigits := by
  intro n fuel hfuel
  have hn : n.toNat < 58 ^ 22 := lt_trans n.isLt (by norm_num)
  rw [encodeDigits_toNat, sourceDigits, pad_reverse_sourceEmit hfuel hn]

/-! The strings that are some value's characters (R126). -/

theorem map_dig_lanes8_toNat (w : CharWord) :
    ((lanes8 w).map fun c => (dig c).digit).map BitVec.toNat = expand 58 22 (magnitude w) [] := by
  have hlen : (((lanes8 w).map fun c => (dig c).digit).map BitVec.toNat).length = 22 := by
    rw [List.length_map, List.length_map, lanes8_length]
  have hlt : ∀ d ∈ ((lanes8 w).map fun c => (dig c).digit).map BitVec.toNat, d < 58 := by
    rw [List.map_map, List.forall_mem_map]
    exact fun c _ => dig_lt c
  rw [magnitude_eq, ← hlen, expand_contract _ hlt]

/-- Alphabet strings of one value are one string. -/
theorem eq_of_magnitude_eq {w x : CharWord} (hw : (lanes8 w).all member = true)
    (hx : (lanes8 x).all member = true) (h : magnitude w = magnitude x) : w = x := by
  have hdig : ((lanes8 w).map fun c => (dig c).digit) = (lanes8 x).map fun c => (dig c).digit :=
    map_toNat_injective (by rw [map_dig_lanes8_toNat, map_dig_lanes8_toNat, h])
  have hlanes : lanes8 w = lanes8 x := Option.some.inj (by
    rw [← symbols_map_dig _ hw, ← symbols_map_dig _ hx, hdig])
  rw [← packChars_lanes8 w, hlanes, packChars_lanes8]

@[simp] theorem magnitude_encodedChars (n : UuidValue) : magnitude (encodedChars n) = n.toNat := by
  rw [magnitude_eq, map_dig_encodedChars, contract_encodeDigits]

theorem encodedChars_injective : Function.Injective encodedChars := by
  intro n m h
  have := congrArg magnitude h
  rw [magnitude_encodedChars, magnitude_encodedChars] at this
  exact BitVec.eq_of_toNat_eq this

theorem encodedChars_eq_iff (n : UuidValue) (w : CharWord) :
    encodedChars n = w ↔ (lanes8 w).all member = true ∧ magnitude w = n.toNat := by
  constructor
  · rintro rfl
    exact ⟨all_member_encodedChars n, magnitude_encodedChars n⟩
  · rintro ⟨hm, hv⟩
    exact eq_of_magnitude_eq (all_member_encodedChars n) hm ((magnitude_encodedChars n).trans hv.symm)

/-- The verdict as a range: 22 alphabet characters of a value below 2^128 (R163). -/
theorem verdict_iff (l : Length) (w : CharWord) :
    verdict l w = true ↔ l = 22 ∧ (lanes8 w).all member = true ∧ magnitude w < 2 ^ 128 := by
  have hdig : ∀ d ∈ (lanes8 w).map fun c => (dig c).digit, d.toNat < 58 := by
    simpa using fun c _ => dig_lt c
  rw [verdict, Bool.and_eq_true, Bool.and_eq_true, lengthOk_iff, allMembers, and_assoc,
    notAbove_iff _ _ (by simp [romMaxDigits]) hdig (by decide), ← magnitude_eq, contract_max,
    Nat.le_sub_one_iff_lt (Nat.two_pow_pos 128)]

theorem verdict_iff_encodedChars (w : CharWord) : verdict 22 w = true ↔ ∃ n, encodedChars n = w := by
  simp only [verdict_iff, true_and, encodedChars_eq_iff]
  constructor
  · rintro ⟨hm, hlt⟩
    exact ⟨BitVec.ofNat 128 (magnitude w), hm, by rw [BitVec.toNat_ofNat, Nat.mod_eq_of_lt hlt]⟩
  · rintro ⟨n, hm, hv⟩
    exact ⟨hm, hv.trans_lt n.isLt⟩

/-- Settles O29: the characters keep the value, and a string VALIDATE accepts is that of its own value. -/
theorem encodeImageIsTheAcceptedStrings : Obligations.EncodeImageIsTheAcceptedStrings := by
  refine ⟨fun n m l c s => ⟨_, _, exec_encode n l c s, exec_encode m l c s, fun h => encodedChars_injective h⟩,
    fun v c s => ⟨_, exec_spec (.validate v 22 c) s rfl, ?_⟩⟩
  have hchars : ∀ n, (∃ u, exec (.encode n 0 0) s = .next u ∧ u.rspChars = c) ↔ encodedChars n = c := by
    simp [exec_encode]
  simp only [hchars]
  exact verdict_iff_encodedChars c

end Sys2Proof.Machine
end

section
/-! DECODE (42_decode.md): its four results, the sticky accumulator, and that it inverts ENCODE and ENCODE it. -/

namespace Sys2Proof.Machine

/-! What DECODE answers. -/

theorem exec_decode (v : UuidValue) (l : Length) (c : CharWord) (s : State) :
    exec (.decode v l c) s = .next (completed 0b01 (decodeF l c) s) := exec_spec (.decode v l c) s rfl

theorem exec_validate (v : UuidValue) (l : Length) (c : CharWord) (s : State) :
    exec (.validate v l c) s = .next (completed 0b10 (validateF l c) s) := exec_spec (.validate v l c) s rfl

/-- A lane that is no member fails the symbol test, whatever the value (R145). -/
theorem decodeF_of_lane_not_member {c : CharWord} {i : Nat} (hi : i < 22) (h : member (lane8 c i) = false) :
    decodeF 22 c = bare .errSymbol := by
  have hall : (lanes8 c).all member = false :=
    Bool.eq_false_iff.2 fun hm => Bool.eq_false_iff.1 h ((allMembers_iff c).1 hm i hi)
  rw [decodeF_eq, if_neg (not_not.2 rfl), if_pos hall]

/-- Past the length and symbol tests the value alone decides (R143). -/
theorem decodeF_of_members {c : CharWord} (hm : ∀ i < 22, member (lane8 c i) = true) :
    decodeF 22 c = if 2 ^ 128 ≤ magnitude c then bare .errRange
      else ⟨0, false, BitVec.ofNat 128 (magnitude c), 0, 0⟩ := by
  have hall : ¬(lanes8 c).all member = false := Bool.not_eq_false _ ▸ (allMembers_iff c).2 hm
  rw [decodeF_eq, if_neg (not_not.2 rfl), if_neg hall]

theorem decodeF_of_magnitude_ge {c : CharWord} (hm : ∀ i < 22, member (lane8 c i) = true)
    (h : 2 ^ 128 ≤ magnitude c) : decodeF 22 c = bare .errRange := by
  rw [decodeF_of_members hm, if_pos h]

theorem decodeF_of_magnitude_lt {c : CharWord} (hm : ∀ i < 22, member (lane8 c i) = true)
    (h : magnitude c < 2 ^ 128) : decodeF 22 c = ⟨0, false, BitVec.ofNat 128 (magnitude c), 0, 0⟩ := by
  rw [decodeF_of_members hm, if_neg (Nat.not_le.2 h)]

/-- The four results of DECODE, each with the condition it stands under (R145). -/
theorem decodeF_cases (l : Length) (c : CharWord) :
    (l ≠ 22 ∧ decodeF l c = bare .errLength) ∨
    (l = 22 ∧ (∃ i < 22, member (lane8 c i) = false) ∧ decodeF l c = bare .errSymbol) ∨
    (l = 22 ∧ (∀ i < 22, member (lane8 c i) = true) ∧ 2 ^ 128 ≤ magnitude c ∧
      decodeF l c = bare .errRange) ∨
    (l = 22 ∧ (∀ i < 22, member (lane8 c i) = true) ∧ magnitude c < 2 ^ 128 ∧
      decodeF l c = ⟨0, false, BitVec.ofNat 128 (magnitude c), 0, 0⟩) := by
  by_cases hl : l = 22
  · subst hl
    by_cases hm : ∀ i < 22, member (lane8 c i) = true
    · obtain hge | hlt := le_or_gt (2 ^ 128) (magnitude c)
      · exact .inr (.inr (.inl ⟨rfl, hm, hge, decodeF_of_magnitude_ge hm hge⟩))
      · exact .inr (.inr (.inr ⟨rfl, hm, hlt, decodeF_of_magnitude_lt hm hlt⟩))
    · obtain ⟨i, hi, hmem⟩ : ∃ i < 22, member (lane8 c i) = false := by simpa using hm
      exact .inr (.inl ⟨rfl, ⟨i, hi, hmem⟩, decodeF_of_lane_not_member hi hmem⟩)
  · exact .inl ⟨hl, decodeF_of_length_ne hl c⟩

/-- DECODE writes neither verdict nor digits nor characters (R33). -/
theorem decodeF_eq_status_value (l : Length) (c : CharWord) :
    decodeF l c = ⟨(decodeF l c).status, false, (decodeF l c).value, 0, 0⟩ := by
  obtain ⟨-, h⟩ | ⟨-, -, h⟩ | ⟨-, -, -, h⟩ | ⟨-, -, -, h⟩ := decodeF_cases l c <;> rw [h] <;> rfl

/-! The status. -/

theorem decodeF_status_cases (l : Length) (c : CharWord) :
    (l ≠ 22 ∧ (decodeF l c).status = 1) ∨
    (l = 22 ∧ (∃ i < 22, member (lane8 c i) = false) ∧ (decodeF l c).status = 2) ∨
    (l = 22 ∧ (∀ i < 22, member (lane8 c i) = true) ∧ 2 ^ 128 ≤ magnitude c ∧ (decodeF l c).status = 3) ∨
    (l = 22 ∧ (∀ i < 22, member (lane8 c i) = true) ∧ magnitude c < 2 ^ 128 ∧ (decodeF l c).status = 0) := by
  obtain ⟨hl, h⟩ | ⟨hl, hm, h⟩ | ⟨hl, hm, hge, h⟩ | ⟨hl, hm, hlt, h⟩ := decodeF_cases l c
  · exact .inl ⟨hl, congrArg Response.status h⟩
  · exact .inr (.inl ⟨hl, hm, congrArg Response.status h⟩)
  · exact .inr (.inr (.inl ⟨hl, hm, hge, congrArg Response.status h⟩))
  · exact .inr (.inr (.inr ⟨hl, hm, hlt, congrArg Response.status h⟩))

theorem decodeF_status_eq_one_iff (l : Length) (c : CharWord) : (decodeF l c).status = 1 ↔ l ≠ 22 := by
  constructor
  · intro hs
    obtain ⟨hl, -⟩ | ⟨-, -, h⟩ | ⟨-, -, -, h⟩ | ⟨-, -, -, h⟩ := decodeF_status_cases l c
    case inl => exact hl
    all_goals exact absurd (h.symm.trans hs) (by decide)
  · intro hl
    rw [decodeF_of_length_ne hl, bare_status, statusCode]

theorem decodeF_status_eq_two_iff (l : Length) (c : CharWord) :
    (decodeF l c).status = 2 ↔ l = 22 ∧ ∃ i < 22, member (lane8 c i) = false := by
  constructor
  · intro hs
    obtain ⟨-, h⟩ | ⟨hl, hm, -⟩ | ⟨-, -, -, h⟩ | ⟨-, -, -, h⟩ := decodeF_status_cases l c
    case inr.inl => exact ⟨hl, hm⟩
    all_goals exact absurd (h.symm.trans hs) (by decide)
  · rintro ⟨rfl, i, hi, hm⟩
    rw [decodeF_of_lane_not_member hi hm, bare_status, statusCode]

theorem decodeF_status_eq_three_iff (l : Length) (c : CharWord) :
    (decodeF l c).status = 3 ↔ l = 22 ∧ (∀ i < 22, member (lane8 c i) = true) ∧ 2 ^ 128 ≤ magnitude c := by
  constructor
  · intro hs
    obtain ⟨-, h⟩ | ⟨-, -, h⟩ | ⟨hl, hm, hge, -⟩ | ⟨-, -, -, h⟩ := decodeF_status_cases l c
    case inr.inr.inl => exact ⟨hl, hm, hge⟩
    all_goals exact absurd (h.symm.trans hs) (by decide)
  · rintro ⟨rfl, hm, hge⟩
    rw [decodeF_of_magnitude_ge hm hge, bare_status, statusCode]

theorem decodeF_status_eq_zero_iff (l : Length) (c : CharWord) :
    (decodeF l c).status = 0 ↔ l = 22 ∧ (∀ i < 22, member (lane8 c i) = true) ∧ magnitude c < 2 ^ 128 := by
  constructor
  · intro hs
    obtain ⟨-, h⟩ | ⟨-, -, h⟩ | ⟨-, -, -, h⟩ | ⟨hl, hm, hlt, -⟩ := decodeF_status_cases l c
    case inr.inr.inr => exact ⟨hl, hm, hlt⟩
    all_goals exact absurd (h.symm.trans hs) (by decide)
  · rintro ⟨rfl, hm, hlt⟩
    rw [decodeF_of_magnitude_lt hm hlt]

/-! The value. -/

/-- On OK the value is exact (R143). -/
theorem decodeF_value_of_ok {l : Length} {c : CharWord} (h : (decodeF l c).status = 0) :
    (decodeF l c).value.toNat = magnitude c := by
  obtain ⟨rfl, hm, hlt⟩ := (decodeF_status_eq_zero_iff l c).1 h
  rw [decodeF_of_magnitude_lt hm hlt, BitVec.toNat_ofNat, Nat.mod_eq_of_lt hlt]

theorem decodeF_value_of_error {l : Length} {c : CharWord} (h : (decodeF l c).status ≠ 0) :
    (decodeF l c).value = 0 := by
  obtain ⟨-, he⟩ | ⟨-, -, he⟩ | ⟨-, -, -, he⟩ | ⟨-, -, -, he⟩ := decodeF_cases l c
  · rw [he]; rfl
  · rw [he]; rfl
  · rw [he]; rfl
  · exact absurd (congrArg Response.status he) h

theorem completed_decodeF (l : Length) (c : CharWord) (s : State) :
    completed 0b01 (decodeF l c) s =
      { s with busy := false, rspValid := true, remain := 0, rspOp := 0b01,
               rspStatus := (decodeF l c).status, rspIsvalid := false, rspValue := (decodeF l c).value,
               rspDigits := 0, rspChars := 0 } :=
  congrArg (completed 0b01 · s) (decodeF_eq_status_value l c)

/-- Settles O16: the four results exclude each other, and completion writes nothing else. -/
theorem decodeCompletesWithTheContraction : Obligations.DecodeCompletesWithTheContraction := by
  intro v l c s
  simp only [← member_eq]
  exact ⟨_, exec_decode v l c s, decodeF_status_eq_one_iff l c, decodeF_status_eq_two_iff l c,
    decodeF_status_eq_three_iff l c, decodeF_status_eq_zero_iff l c, decodeF_value_of_ok,
    decodeF_value_of_error, completed_decodeF l c s⟩

/-! Fixed operands. -/

theorem decodesTo_of_decodeF {l : Length} {c : CharWord} {st : StatusCode} {n : UuidValue}
    (h : decodeF l c = ⟨st, false, n, 0, 0⟩) : DecodesTo l c st n :=
  fun v s => ⟨_, exec_decode v l c s, congrArg Response.status h, congrArg Response.value h⟩

/-- Settles O17: the responses to the eleven rows are evaluated. -/
theorem decodeBoundaryResults : Obligations.DecodeBoundaryResults :=
  ⟨decodesTo_of_decodeF (by decide +kernel), decodesTo_of_decodeF (by decide +kernel),
    decodesTo_of_decodeF (by decide +kernel), decodesTo_of_decodeF (by decide +kernel),
    decodesTo_of_decodeF (by decide +kernel), decodesTo_of_decodeF (by decide +kernel),
    decodesTo_of_decodeF (decodeF_of_length_ne (by decide) _),
    decodesTo_of_decodeF (decodeF_of_length_ne (by decide) _),
    decodesTo_of_decodeF (decodeF_of_lane_not_member (i := 0) (by decide) (by decide)),
    decodesTo_of_decodeF (decodeF_of_lane_not_member (i := 21) (by decide) (by decide)),
    decodesTo_of_decodeF (decodeF_of_lane_not_member (i := 21) (by decide) (by decide))⟩

/-! The leading digit (R146). -/

/-- `Z` is digit 32, and the lowercase letters follow it (R104). -/
theorem digit_gt_thirtyOne_iff {c : Byte} (h : member c = true) :
    31 < (dig c).digit.toNat ↔ c = 0x5A ∨ (0x61 ≤ c.toNat ∧ c.toNat ≤ 0x7A) := by
  have hoff := dig_offset c h
  have hle := toNat_le_of_member h
  have hZ : c = 0x5A ↔ c.toNat = 0x5A := BitVec.toNat_inj.symm
  rw [hZ]
  omega

/-- The place of lane 0 is 58^21. -/
theorem leading_digit_mul_le_magnitude (c : CharWord) :
    (dig (lane8 c 0)).digit.toNat * 58 ^ 21 ≤ magnitude c :=
  Finset.single_le_sum (f := fun i => (dig (lane8 c i)).digit.toNat * 58 ^ (21 - i))
    (fun _ _ => Nat.zero_le _) (Finset.mem_range.2 (by decide : 0 < 22))

/-- 32 * 58^21 is above 2^128. -/
theorem magnitude_ge_of_leading_digit {c : CharWord} (h : 31 < (dig (lane8 c 0)).digit.toNat) :
    2 ^ 128 ≤ magnitude c := by
  have := leading_digit_mul_le_magnitude c
  omega

theorem verdict_of_magnitude_ge (l : Length) {c : CharWord} (h : 2 ^ 128 ≤ magnitude c) :
    verdict l c = false := by
  refine Bool.eq_false_iff.2 fun hv => ?_
  obtain ⟨-, -, hlt⟩ := (verdict_iff l c).1 hv
  exact Nat.not_lt.2 h hlt

/-- Settles O18: such a lane 0 alone puts the value at 32 * 58^21 or more, above 2^128. -/
theorem leadingDigitAboveThirtyOneIsOutOfRange : Obligations.LeadingDigitAboveThirtyOneIsOutOfRange := by
  intro v c s hm
  have hlead := digit_gt_thirtyOne_iff (hm 0 (by decide))
  refine ⟨hlead, fun h => ?_⟩
  have hge := magnitude_ge_of_leading_digit (hlead.2 h)
  exact ⟨⟨_, exec_decode v 22 c s, (decodeF_status_eq_three_iff 22 c).2 ⟨rfl, hm, hge⟩⟩,
    _, exec_validate v 22 c s, verdict_of_magnitude_ge 22 hge⟩

/-! The sticky accumulator (R144). -/

/-- One digit: the wrapped sum is the exact one modulo 2^128, and the sticky bit says whether the exact
value has reached 2^128, at this digit or before. -/
theorem stickyContract_cons (n : Nat) (d : Digit) (ds : List Digit) :
    stickyContract (BitVec.ofNat 128 n, decide (2 ^ 128 ≤ n)) (d :: ds) =
      stickyContract (BitVec.ofNat 128 (n * 58 + d.toNat), decide (2 ^ 128 ≤ n * 58 + d.toNat)) ds := by
  have hval : BitVec.ofNat 128 (58 * (n % 2 ^ 128) + d.toNat) = BitVec.ofNat 128 (n * 58 + d.toNat) := by
    refine BitVec.eq_of_toNat_eq ?_
    rw [BitVec.toNat_ofNat, BitVec.toNat_ofNat]
    omega
  have hbit : (2 ^ 128 ≤ n ∨ 2 ^ 128 ≤ 58 * (n % 2 ^ 128) + d.toNat) ↔ 2 ^ 128 ≤ n * 58 + d.toNat := by
    omega
  rw [stickyContract, BitVec.toNat_ofNat, hval, ← Bool.decide_or, decide_eq_decide.2 hbit]

/-- The accumulator wraps the exact contraction, and the sticky bit is its range test. -/
theorem stickyContract_eq (n : Nat) (ds : List Digit) :
    stickyContract (BitVec.ofNat 128 n, decide (2 ^ 128 ≤ n)) ds =
      (BitVec.ofNat 128 (contract 58 n (ds.map BitVec.toNat)),
        decide (2 ^ 128 ≤ contract 58 n (ds.map BitVec.toNat))) := by
  induction ds generalizing n with
  | nil => rfl
  | cons d ds ih => rw [stickyContract_cons, ih, List.map_cons, contract]

/-- On members the sticky bit takes the branch the range test takes, with the same value. -/
theorem decodeSticky_eq_of_digits {l : Length} {c : CharWord} {ds : List Digit} (hl : lengthOk l = true)
    (hd : digits (lanes8 c) = some ds) : decodeSticky l c = decodeF l c := by
  have hs : stickyContract (0, false) ds = _ := stickyContract_eq 0 ds
  have hrange : ∀ n : Nat, n > 2 ^ 128 - 1 ↔ 2 ^ 128 ≤ n := by omega
  simp only [decodeSticky, decodeF, hl, hd, hs, hrange, if_true, decide_eq_true_eq]

/-- Settles O19: the length and symbol tests are the same, and the accumulator with its sticky bit is the
exact value, wrapped, with its range test. -/
theorem stickyAccumulatorGivesTheSameResponse : Obligations.StickyAccumulatorGivesTheSameResponse := by
  intro l c
  cases hl : lengthOk l with
  | false => simp only [decodeSticky, decodeF, hl, Bool.false_eq_true, if_false]
  | true =>
    cases hd : digits (lanes8 c) with
    | none => simp only [decodeSticky, decodeF, hl, hd, if_true]
    | some ds => exact decodeSticky_eq_of_digits hl hd

/-! DECODE and ENCODE are inverse (R147). -/

theorem decodeF_encodedChars (n : UuidValue) : decodeF 22 (encodedChars n) = ⟨0, false, n, 0, 0⟩ := by
  have hm := (allMembers_iff _).1 (all_member_encodedChars n)
  have hlt : magnitude (encodedChars n) < 2 ^ 128 := (magnitude_encodedChars n).trans_lt n.isLt
  rw [decodeF_of_magnitude_lt hm hlt, magnitude_encodedChars, BitVec.ofNat_toNat, BitVec.setWidth_eq]

theorem verdict_encodedChars (n : UuidValue) : verdict 22 (encodedChars n) = true :=
  (verdict_iff_encodedChars _).2 ⟨n, rfl⟩

/-- Settles O27: the characters of a value are members, and their value is that value. -/
theorem decodeInvertsEncode : Obligations.DecodeInvertsEncode := by
  intro n v l c s s'
  have hdec := decodeF_encodedChars n
  exact ⟨_, _, _, exec_encode n l c s, exec_decode v 22 _ s', congrArg Response.status hdec,
    congrArg Response.value hdec, exec_validate v 22 _ s', verdict_encodedChars n⟩

theorem encodedChars_decodeF_value {c : CharWord} (h : (decodeF 22 c).status = 0) :
    encodedChars (decodeF 22 c).value = c := by
  obtain ⟨-, hm, -⟩ := (decodeF_status_eq_zero_iff 22 c).1 h
  exact (encodedChars_eq_iff _ c).2 ⟨(allMembers_iff c).2 hm, (decodeF_value_of_ok h).symm⟩

/-- Settles O28: two alphabet strings of one value are one string. -/
theorem encodeInvertsDecode : Obligations.EncodeInvertsDecode := fun v c s =>
  ⟨_, exec_decode v 22 c s, fun h l c' s' => ⟨_, exec_encode _ l c' s', encodedChars_decodeF_value h⟩⟩

end Sys2Proof.Machine
end

section
/-! VALIDATE (43_validate.md): its verdict as a comparison lane by lane and by codes, and its agreement with
DECODE. -/

namespace Sys2Proof.Machine

/-! Step (c) lane by lane (R160). -/

theorem notAbove_iff_le {es ms : List Digit} (hlen : es.length = ms.length) :
    notAbove es ms = true ↔ es ≤ ms := by
  induction es generalizing ms with
  | nil => simp [notAbove]
  | cons e es ih =>
    cases ms with
    | nil => cases hlen
    | cons m ms =>
      rw [notAbove, List.cons_le_cons_iff, ← ih (Nat.succ.inj hlen)]
      obtain hlt | rfl | hgt := Std.lt_trichotomy e m
      · simp [hlt, BitVec.lt_asymm hlt]
      · simp
      · simp [hgt, BitVec.lt_asymm hgt, (BitVec.ne_of_lt hgt).symm]

/-- All lanes equal is accepted; else the first lane that differs decides. -/
theorem notAbove_iff_first_difference {es ms : List Digit} (hlen : es.length = ms.length) :
    notAbove es ms = true ↔ (∀ i, (hi : i < es.length) → ms[i]? = some es[i]) ∨
      ∃ j, ∃ hj : j < es.length, (∀ i, (hi : i < j) → ms[i]? = some es[i]) ∧
        ∃ m, ms[j]? = some m ∧ es[j] < m := by
  rw [notAbove_iff_le hlen, List.le_iff_exists, List.take_of_length_le hlen.ge, List.ext_getElem_iff]
  simp only [List.getElem?_eq_some_iff]
  constructor
  · rintro (⟨-, heq⟩ | ⟨j, hj, hm, heq, hlt⟩)
    · exact .inl fun i hi => ⟨hlen ▸ hi, (heq i hi _).symm⟩
    · exact .inr ⟨j, hj, fun i hi => ⟨hi.trans hm, (heq i hi).symm⟩, _, ⟨hm, rfl⟩, hlt⟩
  · rintro (heq | ⟨j, hj, heq, m, ⟨hm, rfl⟩, hlt⟩)
    · exact .inl ⟨hlen, fun i hi _ => (heq i hi).2.symm⟩
    · exact .inr ⟨j, hj, hm, fun i hi => (heq i hi).2.symm, hlt⟩

theorem notAbove_romMaxDigits_iff (c : CharWord) :
    notAbove ((lanes8 c).map fun b => (dig b).digit) romMaxDigits = true ↔
      (∀ i < 22, maxd i = some (dig (lane8 c i)).digit) ∨
        ∃ j < 22, (∀ i < j, maxd i = some (dig (lane8 c i)).digit) ∧
          ∃ m, maxd j = some m ∧ (dig (lane8 c j)).digit < m := by
  have hlen : ((lanes8 c).map fun b => (dig b).digit).length = romMaxDigits.length :=
    (List.length_map _).trans (lanes8_length c)
  rw [notAbove_iff_first_difference hlen]
  simp only [List.length_map, lanes8_length, List.getElem_map, lanes8_getElem, exists_prop, maxd]

theorem verdict_iff_first_difference (l : Length) (c : CharWord) :
    verdict l c = true ↔ l = 22 ∧ (∀ i < 22, member (lane8 c i) = true) ∧
      ((∀ i < 22, maxd i = some (dig (lane8 c i)).digit) ∨
        ∃ j < 22, (∀ i < j, maxd i = some (dig (lane8 c i)).digit) ∧
          ∃ m, maxd j = some m ∧ (dig (lane8 c j)).digit < m) := by
  rw [verdict, ← formatOk, Bool.and_eq_true, formatOk_iff, notAbove_romMaxDigits_iff, and_assoc]

/-- Settles O20: step (c) is the comparison lane by lane, and completion writes nothing else. -/
theorem validateCompletesWithTheVerdict : Obligations.ValidateCompletesWithTheVerdict := fun v l c s =>
  ⟨_, exec_validate v l c s, verdict_iff_first_difference l c, rfl⟩

/-! Agreement with DECODE (R163, R165). -/

/-- Length, members and range: VALIDATE's verdict is DECODE's status OK. -/
theorem verdict_iff_decodeF_status (l : Length) (c : CharWord) :
    verdict l c = true ↔ (decodeF l c).status = 0 := by
  rw [verdict_iff, allMembers_iff, decodeF_status_eq_zero_iff]

/-- Settles O22: both say that the length is 22, every lane a member and the value below 2^128. -/
theorem validateAcceptsExactlyWhatDecodeAccepts : Obligations.ValidateAcceptsExactlyWhatDecodeAccepts :=
  fun v v' l c s s' => ⟨_, _, exec_validate v l c s, exec_decode v' l c s', verdict_iff_decodeF_status l c⟩

/-- Settles O25: the two statuses are those of a failed length or symbol test. -/
theorem formatCheckIsDecodeWithoutTheRangeTest : Obligations.FormatCheckIsDecodeWithoutTheRangeTest := by
  intro v l c s
  refine ⟨_, exec_decode v l c s, ?_, formatOk_iff l c⟩
  rw [completed_rspStatus, formatOk_iff, Ne, Ne, decodeF_status_eq_one_iff, decodeF_status_eq_two_iff, not_not]
  exact and_congr_right fun hl => by simp [hl]

/-! Step (c) by codes (R162). -/

theorem map_dig_romMaxChars : (romMaxChars.map fun b => (dig b).digit) = romMaxDigits := by decide

theorem all_member_romMaxChars : romMaxChars.all member = true := by decide

/-- The symbol codes ascend with their digits (R103), so on members each lane compares alike. -/
theorem codesNotAbove_eq_notAbove {cs ms : List Byte} (hc : cs.all member = true) (hm : ms.all member = true) :
    codesNotAbove cs ms = notAbove (cs.map fun b => (dig b).digit) (ms.map fun b => (dig b).digit) := by
  induction cs generalizing ms with
  | nil => rfl
  | cons c cs ih =>
    cases ms with
    | nil => rfl
    | cons m ms =>
      rw [List.all_cons, Bool.and_eq_true] at hc hm
      obtain ⟨hc, hcs⟩ := hc
      obtain ⟨hm, hms⟩ := hm
      simp only [List.map_cons, codesNotAbove, notAbove, dig_lt_iff c m hc hm, dig_lt_iff m c hm hc, ih hcs hms]

/-- Settles O23: where step (b) has passed, both comparisons are the same; where not, both verdicts are 0. -/
theorem codeComparisonGivesTheSameVerdict : Obligations.CodeComparisonGivesTheSameVerdict := by
  intro l c
  rw [verdictByCodes, verdict]
  cases hall : allMembers (lanes8 c) with
  | false => simp only [Bool.and_false, Bool.false_and]
  | true => rw [codesNotAbove_eq_notAbove hall all_member_romMaxChars, map_dig_romMaxChars]

/-! Fixed operands (R164). -/

theorem validatesTo_of_verdict {l : Length} {c : CharWord} {b : Bool} (h : verdict l c = b) :
    ValidatesTo l c b := fun v s => ⟨_, exec_validate v l c s, rfl, h⟩

theorem validatesTo_false_of_formatOk_false {l : Length} {c : CharWord} (h : formatOk l c = false) :
    ValidatesTo l c false := validatesTo_of_verdict (verdict_of_formatOk_false h)

/-- Settles O21: the rows that pass the format check are evaluated; D15 and D19 fail its length test, D21
its symbol test. -/
theorem validateBoundaryResults : Obligations.ValidateBoundaryResults :=
  ⟨validatesTo_of_verdict (by decide +kernel), validatesTo_of_verdict (by decide +kernel),
    validatesTo_of_verdict (by decide +kernel), validatesTo_of_verdict (by decide +kernel),
    validatesTo_of_verdict (by decide +kernel), validatesTo_of_verdict (by decide +kernel),
    validatesTo_of_verdict (by decide +kernel), validatesTo_of_verdict (by decide +kernel),
    validatesTo_false_of_formatOk_false (formatOk_of_length_ne (by decide) _),
    validatesTo_false_of_formatOk_false (formatOk_of_length_ne (by decide) _),
    validatesTo_false_of_formatOk_false (formatOk_of_lane_not_member (i := 21) (by decide) (by decide) 22)⟩

end Sys2Proof.Machine
end

section
/-! UUID text (R181 to R183): hex digits, the hyphens, and parsing as the inverse of rendering. -/

namespace Sys2Proof.Machine

/-! Hex digits. -/

/-- The hex digits, letters of either case (R181). -/
def hexAlphabet : List Char := "0123456789abcdefABCDEF".toList

theorem toNat_lt_of_hexValue {c : Char} (h : hexValue c ≠ none) : c.toNat < 128 := by
  have toNat_le {d : Char} (hc : c ≤ d) : c.toNat ≤ d.toNat := hc
  rw [hexValue] at h
  split at h
  · next hc => exact (toNat_le hc.2).trans_lt (by decide)
  split at h
  · next hc => exact (toNat_le hc.2).trans_lt (by decide)
  split at h
  · next hc => exact (toNat_le hc.2).trans_lt (by decide)
  · exact absurd rfl h

/-- Only ASCII characters have a value, and there the table of values is evaluated. -/
theorem hexValue_eq_none_iff (c : Char) : hexValue c = none ↔ c ∉ hexAlphabet := by
  have valued : hexAlphabet.all (hexValue · != none) = true := by decide
  have ascii : ∀ n < 128, hexValue (Char.ofNat n) ≠ none → Char.ofNat n ∈ hexAlphabet := by decide +kernel
  refine ⟨fun h hc => bne_iff_ne.1 (List.all_eq_true.1 valued c hc) h, not_imp_comm.1 fun h => ?_⟩
  have := ascii c.toNat (toNat_lt_of_hexValue h)
  rw [Char.ofNat_toNat] at this
  exact this h

theorem hexValues_eq_none_iff (cs : List Char) : hexValues cs = none ↔ ∃ c ∈ cs, c ∉ hexAlphabet := by
  induction cs with
  | nil => simp [hexValues]
  | cons c cs ih =>
    rw [List.exists_mem_cons_iff, ← hexValue_eq_none_iff, ← ih, hexValues]
    cases hexValue c <;> cases hexValues cs <;> simp

theorem hexChar_spec : ∀ d < 16, hexValue (hexChar d) = some d ∧ hexChar d ≠ '-' := by decide

theorem hexValues_map_hexChar {ds : List Nat} (h : ∀ d ∈ ds, d < 16) : hexValues (ds.map hexChar) = some ds := by
  induction ds with
  | nil => rfl
  | cons d ds ih =>
    obtain ⟨hd, hds⟩ := List.forall_mem_cons.1 h
    simp only [List.map_cons, hexValues, (hexChar_spec d hd).1, ih hds]

/-! The 32 digits of a value. -/

@[simp] theorem hexText_length (v : UuidValue) : (hexText v).length = 32 := by
  rw [hexText, List.length_map, expand_length]

theorem hexValues_hexText (v : UuidValue) : hexValues (hexText v) = some (expand 16 32 v.toNat []) :=
  hexValues_map_hexChar (expand_lt (by decide) _ _)

theorem hyphen_notMem_hexText (v : UuidValue) : '-' ∉ hexText v := by
  intro h
  obtain ⟨d, hd, he⟩ := List.mem_map.1 h
  exact (hexChar_spec d (expand_lt (by decide) _ _ d hd)).2 he

/-- Hex digit `k`, counting from 0, shows the four bits from bit `124 - 4k` up (R183). -/
theorem hexText_getElem? (v : UuidValue) {k : Nat} (hk : k < 32) :
    (hexText v)[k]? = some (hexChar (v.extractLsb' (124 - 4 * k) 4).toNat) := by
  have hshift : 124 - 4 * k = 4 * (31 - k) := by omega
  have hlen : k < (expand 16 32 v.toNat []).length := by rwa [expand_length]
  rw [hexText, List.getElem?_map, List.getElem?_eq_getElem hlen, expand_getElem, Option.map_some,
    BitVec.extractLsb'_toNat, Nat.shiftRight_eq_div_pow, hshift, Nat.pow_mul]

/-! The hyphens. -/

theorem stripHyphens_append_hyphen (a b : List Char) :
    stripHyphens (a ++ '-' :: b) = stripHyphens a ++ stripHyphens b := by
  simp [stripHyphens]

theorem stripHyphens_of_notMem {t : List Char} (h : '-' ∉ t) : stripHyphens t = t := by
  rw [stripHyphens, List.filter_eq_self]
  intro c hc
  exact bne_iff_ne.2 fun he => h (he ▸ hc)

/-- Grouping only inserts hyphens: stripping the groups one by one is stripping the whole. -/
theorem stripHyphens_groupUuid (h : List Char) : stripHyphens (groupUuid h) = stripHyphens h := by
  have hdrop (m n : Nat) : h.drop (m + n) = (h.drop m).drop n := List.drop_drop.symm
  have hwhole : h.take 8 ++ ((h.drop 8).take 4 ++ ((h.drop 12).take 4 ++ ((h.drop 16).take 4 ++ h.drop 20))) = h := by
    rw [hdrop 16 4, List.take_append_drop, hdrop 12 4, List.take_append_drop, hdrop 8 4, List.take_append_drop,
      List.take_append_drop]
  rw [groupUuid]
  simp only [stripHyphens_append_hyphen]
  simp only [stripHyphens, ← List.filter_append, hwhole]

theorem stripHyphens_renderUuid (v : UuidValue) : stripHyphens (renderUuid v) = hexText v := by
  rw [renderUuid, stripHyphens_groupUuid, stripHyphens_of_notMem (hyphen_notMem_hexText v)]

/-! Parsing. -/

theorem parseUuid_of_hexValues {t : List Char} {ds : List Nat} (hlen : (stripHyphens t).length = 32)
    (hds : hexValues (stripHyphens t) = some ds) : parseUuid t = .ok (BitVec.ofNat 128 (contract 16 0 ds)) := by
  simp only [parseUuid, hlen, hds, if_true]

theorem parseUuid_eq_error_iff (t : List Char) :
    parseUuid t = .error .encodeError ↔
      (stripHyphens t).length ≠ 32 ∨ ∃ c ∈ stripHyphens t, c ∉ hexAlphabet := by
  rw [← hexValues_eq_none_iff]
  by_cases hlen : (stripHyphens t).length = 32
  · cases hds : hexValues (stripHyphens t) <;> simp [parseUuid, hlen, hds]
  · simp [parseUuid, hlen]

@[simp] theorem parseUuid_renderUuid (v : UuidValue) : parseUuid (renderUuid v) = .ok v := by
  have hstrip := stripHyphens_renderUuid v
  rw [parseUuid_of_hexValues (hstrip ▸ hexText_length v) (hstrip ▸ hexValues_hexText v), contract_expand]
  exact congrArg _ (BitVec.eq_of_toNat_eq (by simp [Nat.mod_eq_of_lt v.isLt]))

/-- Settles O48: the stripped text is the value's 32 hex digits, which contract to the value. -/
theorem parsingInvertsRendering : Obligations.ParsingInvertsRendering := by
  refine fun v => ⟨parseUuid_renderUuid v, ?_, ?_⟩
  · simp [renderUuid, groupUuid]
  · simp [renderUuid, groupUuid, List.getElem?_append]

/-- Settles O49: parsing fails in the two cases of R182, and both operations parse before they issue. -/
theorem encodeErrorExactlyForMalformedText : Obligations.EncodeErrorExactlyForMalformedText := by
  refine fun t => ⟨parseUuid_eq_error_iff t, fun h => ⟨?_, ?_⟩⟩
  · simp only [hostEncode, h]
  · simp only [expandStatement, Statement.wf, h, if_true]

end Sys2Proof.Machine
end

section
/-! The source operations on text (R184 to R188): a value's string, what `isValid` and `decode` make of it, and
the generator's bit shaping. -/

namespace Sys2Proof.Machine

/-! The string of a value. -/

/-- The string that `encode` returns for a value (R184 step 3). -/
def encodedText (n : UuidValue) : List Char := unpackText (encodedChars n)

theorem hostEncode_of_parse {t : List Char} {n : UuidValue} (h : parseUuid t = .ok n) :
    hostEncode t = .ok (encodedText n) := by
  simp only [hostEncode, h, respond, encodeF_eq, encodedText]

theorem hostGenerate_some (r : UuidValue) : hostGenerate (some r) = .ok (encodedText (shapeV4 r)) := by
  simp only [hostGenerate, respond, encodeF_eq, encodedText]

@[simp] theorem encodedText_length (n : UuidValue) : (encodedText n).length = 22 := by
  rw [encodedText, unpackText, List.length_map, lanes8_length]

@[simp] theorem textLength_encodedText (n : UuidValue) : textLength (encodedText n) = 22 :=
  (textLength_eq_iff _).2 (encodedText_length n)

/-- A symbol's code is ASCII, so reading it as a character loses nothing. -/
theorem charByte_ofNat_of_member : ∀ b : Byte, member b = true → charByte (Char.ofNat b.toNat) = b := by
  decide +kernel

@[simp] theorem packText_encodedText (n : UuidValue) : packText (encodedText n) = encodedChars n := by
  have hlanes : lanes8 (packText (encodedText n)) = lanes8 (encodedChars n) := by
    rw [lanes8_packText (encodedText_length n), encodedText, unpackText, List.map_map]
    refine (List.map_congr_left fun b hb => ?_).trans (List.map_id _)
    exact charByte_ofNat_of_member b (List.all_eq_true.1 (all_member_encodedChars n) b hb)
  rw [← packChars_lanes8 (packText (encodedText n)), hlanes, packChars_lanes8]

theorem hostIsValid_encodedText (n : UuidValue) : hostIsValid (encodedText n) = true := by
  rw [hostIsValid_eq_verdict, textLength_encodedText, packText_encodedText, verdict_encodedChars]

theorem mem_alphabetText_of_mem_encodedText (n : UuidValue) : ∀ ch ∈ encodedText n, ch ∈ alphabetText := by
  have hv := hostIsValid_encodedText n
  rw [hostIsValid_eq_verdict, verdict, ← formatOk, Bool.and_eq_true] at hv
  exact (text_of_formatOk hv.1).2

theorem hostDecode_of_status_eq {s : List Char} (h : (decodeF (textLength s) (packText s)).status = 0) :
    hostDecode s = .ok (renderUuid (decodeF (textLength s) (packText s)).value) := by
  simp only [hostDecode, decodeCommand, respond]
  exact if_pos h

theorem hostDecode_encodedText (n : UuidValue) : hostDecode (encodedText n) = .ok (renderUuid n) := by
  have hdec : decodeF (textLength (encodedText n)) (packText (encodedText n)) = ⟨0, false, n, 0, 0⟩ := by
    rw [textLength_encodedText, packText_encodedText, decodeF_encodedChars]
  rw [hostDecode_of_status_eq (congrArg Response.status hdec), hdec]

/-- Settles O50: parsing gives the value back, and its string is one that DECODE and VALIDATE accept. -/
theorem textRoundTrip : Obligations.TextRoundTrip := fun v =>
  ⟨encodedText v, hostEncode_of_parse (parseUuid_renderUuid v), encodedText_length v,
    mem_alphabetText_of_mem_encodedText v, hostIsValid_encodedText v, hostDecode_encodedText v⟩

/-! `isValid` and `decode` of any text. -/

theorem hostIsValid_iff_status (s : List Char) :
    hostIsValid s = true ↔ (decodeF (textLength s) (packText s)).status = 0 := by
  rw [hostIsValid_eq_verdict, verdict_iff_decodeF_status]

/-- Settles O51: both issue the same length and lanes, where VALIDATE's verdict is DECODE's status OK. -/
theorem isValidExactlyWhenDecodeSucceeds : Obligations.IsValidExactlyWhenDecodeSucceeds := by
  intro s
  have hreject (h : hostIsValid s = false) : hostDecode s = .error .decodeError :=
    hostDecode_of_status_ne fun hst => Bool.eq_false_iff.1 h ((hostIsValid_iff_status s).2 hst)
  refine ⟨⟨fun h => ⟨_, hostDecode_of_status_eq ((hostIsValid_iff_status s).1 h)⟩, ?_⟩, hreject⟩
  rintro ⟨u, hu⟩
  refine Bool.eq_true_of_not_eq_false fun h => ?_
  cases (hreject h).symm.trans hu

/-! The generator's bit shaping (R187). -/

/-- The shaped value bit by bit: of the six bits that are set, bits 78 and 63 are 1 (R187 step 2). -/
theorem getLsbD_shapeV4 (r : UuidValue) {k : Nat} (hk : k < 128) :
    (shapeV4 r).getLsbD k = if k ∈ [62, 63, 76, 77, 78, 79] then decide (k ∈ [63, 78]) else r.getLsbD k := by
  have hmask : ∀ k < 128, (0b1111#128 <<< 76 ||| 0b11#128 <<< 62).getLsbD k =
      decide (k ∈ [62, 63, 76, 77, 78, 79]) := by decide +kernel
  have hset : ∀ k < 128, (0b0100#128 <<< 76 ||| 0b10#128 <<< 62).getLsbD k = decide (k ∈ [63, 78]) := by
    decide +kernel
  rw [shapeV4, BitVec.getLsbD_or, BitVec.getLsbD_and, BitVec.getLsbD_not, hmask k hk, hset k hk]
  split
  · next h => rw [decide_eq_true h, Bool.not_true, Bool.and_false, Bool.and_false, Bool.false_or]
  · next h =>
    have hfree : k ∉ [63, 78] := fun hm => h (List.Sublist.subset (by decide) hm)
    rw [decide_eq_false h, decide_eq_false hfree, decide_eq_true hk, Bool.not_false, Bool.and_true, Bool.and_true,
      Bool.or_false]

theorem version_shapeV4 (r : UuidValue) : (shapeV4 r).extractLsb' 76 4 = 0b0100#4 := by
  refine BitVec.eq_of_getLsbD_eq fun i hi => ?_
  rw [BitVec.getLsbD_extractLsb', getLsbD_shapeV4 r (by omega)]
  interval_cases i <;> rfl

theorem variant_shapeV4 (r : UuidValue) : (shapeV4 r).extractLsb' 62 2 = 0b10#2 := by
  refine BitVec.eq_of_getLsbD_eq fun i hi => ?_
  rw [BitVec.getLsbD_extractLsb', getLsbD_shapeV4 r (by omega)]
  interval_cases i <;> rfl

theorem extractLsb'_extractLsb' (v : UuidValue) {a m b n : Nat} (h : b + n ≤ m) :
    (v.extractLsb' a m).extractLsb' b n = v.extractLsb' (a + b) n := by
  refine BitVec.eq_of_getLsbD_eq fun i hi => ?_
  have hm : b + i < m := by omega
  simp only [BitVec.getLsbD_extractLsb', hi, hm, decide_true, Bool.true_and, Nat.add_assoc]

/-- A hex digit whose four bits begin with the variant bits (R187). -/
theorem hexChar_mem_of_variant : ∀ x : BitVec 4, x.extractLsb' 2 2 = 0b10#2 →
    hexChar x.toNat ∈ ['8', '9', 'a', 'b'] := by decide

/-- Settles O53: the set bits lie in byte 6 and hex digit 12, byte 8 and hex digit 16; the string is that of
the shaped value. -/
theorem generatorOutputHasTheVersion4Shape : Obligations.GeneratorOutputHasTheVersion4Shape := by
  refine ⟨fun r => ⟨version_shapeV4 r, variant_shapeV4 r, fun k hk hfree => ?_, ?_, ?_, ?_, ?_,
    encodedText (shapeV4 r), hostGenerate_some r, hostIsValid_encodedText _, hostDecode_encodedText _⟩, rfl⟩
  · rw [getLsbD_shapeV4 r hk, if_neg hfree]
  · rw [uuidByte, extractLsb'_extractLsb' _ (by decide), version_shapeV4]
  · rw [uuidByte, extractLsb'_extractLsb' _ (by decide), variant_shapeV4]
  · rw [hexText_getElem? _ (by decide), version_shapeV4]
    rfl
  · refine ⟨_, hexChar_mem_of_variant _ ?_, hexText_getElem? _ (by decide)⟩
    rw [extractLsb'_extractLsb' _ (by decide), variant_shapeV4]

end Sys2Proof.Machine
end

section
/-! Exceptions (60_exceptions.md): what a response carries, where a step or a completion stops, the reserved
command, the interrupt, and several instances. -/

namespace Sys2Proof.Machine

/-! The data of a response. -/

/-- DECODE carries data on OK only (R201). -/
theorem decodeF_of_error {l : Length} {c : CharWord} (h : (decodeF l c).status ≠ 0) :
    decodeF l c = ⟨(decodeF l c).status, false, 0, 0, 0⟩ :=
  (decodeF_eq_status_value l c).trans (by rw [decodeF_value_of_error h])

/-- An error response carries no data, and each data field is one operation's own (R201, R33). -/
theorem respond_data {i : Instr} {r : Response} (h : respond i = some r) :
    (r.status ≠ 0 → r = ⟨r.status, false, 0, 0, 0⟩) ∧
    (i.row ≠ .validate → r.isvalid = false) ∧ (i.row ≠ .decode → r.value = 0) ∧
    (i.row ≠ .encode → r.digits = 0 ∧ r.chars = 0) := by
  cases i with
  | encode v l c =>
    obtain rfl := Option.some.inj ((encodeF_eq v).symm.trans h)
    exact ⟨fun hs => absurd rfl hs, fun _ => rfl, fun _ => rfl, fun hrow => absurd rfl hrow⟩
  | decode v l c =>
    obtain rfl := Option.some.inj h
    have hd := decodeF_eq_status_value l c
    exact ⟨decodeF_of_error, fun _ => congrArg Response.isvalid hd, fun hrow => absurd rfl hrow,
      fun _ => ⟨congrArg Response.digits hd, congrArg Response.chars hd⟩⟩
  | validate v l c =>
    obtain rfl := Option.some.inj h
    exact ⟨fun hs => absurd rfl hs, fun hrow => absurd rfl hrow, fun _ => rfl, fun _ => ⟨rfl, rfl⟩⟩
  | rsv v l c =>
    obtain rfl := Option.some.inj h
    exact ⟨fun _ => rfl, fun _ => rfl, fun _ => rfl, fun _ => ⟨rfl, rfl⟩⟩

/-- Settles O31: a completion writes the command's response, and so the data that response carries. -/
theorem errorResponsesCarryNoData : Obligations.ErrorResponsesCarryNoData := by
  intro i s
  obtain ⟨r, hr, -, he⟩ := exec_answers i
  exact ⟨_, he s, respond_data hr⟩

/-! Where a completion stops. -/

theorem statusUnused_iff (c : StatusCode) : statusUnused c = true ↔ 4 < c.toNat := decide_eq_true_iff

theorem complete_of_unused (op : OpCode) {r : Response} (s : State) (h : 4 < r.status.toNat) :
    complete op r s = .fault .statusCodeUnreachable := by
  rw [complete_eq, if_pos ((statusUnused_iff _).2 h)]

theorem complete_of_used (op : OpCode) {r : Response} (s : State) (h : r.status.toNat ≤ 4) :
    complete op r s = .next (completed op r s) := by
  have hu : ¬statusUnused r.status = true := fun hu => Nat.not_lt.2 h ((statusUnused_iff _).1 hu)
  rw [complete_eq, if_neg hu]

/-- Settles O33: 5 to 7 are the unused codes, 58 to 63 no digits, and every command has an answer. -/
theorem unusedStatusCodesFault : Obligations.UnusedStatusCodesFault := by
  refine ⟨fun op r s => ⟨complete_of_unused op s, fun h => ⟨_, complete_of_used op s h, rfl, rfl⟩⟩,
    fun _ => sym_of_ge, fun i s => ?_⟩
  obtain ⟨r, -, -, he⟩ := exec_answers i
  exact ⟨_, he s⟩

/-! Where a step stops. -/

/-- With binary ports every edge answers a next state (R235). -/
theorem step_next_of_binary {s : State} {p : Ports} (h : sampleOf s.inputs = .binary p) :
    ∃ t, step s = .next t := by
  obtain ⟨t, ht, -⟩ := edge_busy_rspValid p (taken s)
  exact ⟨t, (step_binary h).trans ht⟩

theorem step_ne_fault (s : State) (e : Fault) : step s ≠ .fault e := by
  cases hx : sampleOf s.inputs with
  | binary p =>
    obtain ⟨t, ht⟩ := step_next_of_binary hx
    simp [ht]
  | notBinary => simp [step_notBinary hx]
  | contended => simp [step_contended hx]

/-- Settles O43: the three kinds of sample are the three outcomes, and none of them is a fault. -/
theorem stepStopsOnlyOnPortsOutsideTheSpec : Obligations.StepStopsOnlyOnPortsOutsideTheSpec := fun s =>
  ⟨fun _ => step_next_of_binary, step_notBinary, step_contended, step_ne_fault s⟩

/-! The reserved command. -/

/-- Only the op field selects the reserved command; its operands are the ports' (R205, R73). -/
theorem decodeCmd_portWord_of_rsv {p : Ports} (h : p.cmdOp = 0b11) :
    decodeCmd (portWord p) = .rsv p.cmdValue p.cmdLen p.cmdChars := by
  rw [portWord, h, decodeCmd_cmdWord]
  rfl

theorem latency_rsv (z : Config.Seed) : latency 0b11 z = Config.latRsv z := rfl

/-- Settles O26: RSV is completed with the response it answers, and accepted as any command is. -/
theorem reservedOpCompletesWithErrOpcode : Obligations.ReservedOpCompletesWithErrOpcode := by
  refine ⟨fun v l c s => exec_spec (.rsv v l c) s rfl, fun s p hp hr hb hv hop => ?_⟩
  refine ⟨acceptEdge p (taken s), (step_binary hp).trans (edge_accept hr hb hv), acceptEdge_busy ..,
    ?_, seed (portWord p) (taken s), rfl, rfl, ?_⟩
  · rw [captured_acceptEdge, decodeCmd_portWord_of_rsv hop]
  · rw [acceptEdge_remain, hop, latency_rsv]

/-! The interrupt. -/

@[simp] theorem outputs_rspValid (s : State) : (outputs s).rspValid = s.rspValid := rfl

theorem irqPending_iff (s : State) :
    irqPending s = true ↔ Config.irqWiring = true ∧ s.rspValid = true := Bool.and_eq_true_iff

/-- A held response is given up at a reset edge and at an accept edge only (R24). -/
theorem edge_clears_rspValid_iff (p : Ports) {s : State} (hv : s.rspValid = true) :
    ∃ t, edge p s = .next t ∧
      (t.rspValid = false ↔ p.rst = true ∨ (s.busy = false ∧ p.cmdValid = true)) := by
  obtain ⟨hr, he⟩ | ⟨hr, hb, hc, he⟩ | ⟨hr, hb, -, r, -, he⟩ | ⟨hr, hb, -, he⟩ | ⟨hr, hb, hc, he⟩ :=
    edge_cases p s
  · exact ⟨_, he, by simp [hr]⟩
  · exact ⟨_, he, by simp [hb, hc]⟩
  · exact ⟨_, he, by simp [hr, hb]⟩
  · exact ⟨_, he, by simp [hr, hb, hv]⟩
  · exact ⟨_, he, by simp [hr, hc, hv]⟩

/-- Settles O56: where the interrupt is routed it is RSP_VALID, which only those two edges clear. -/
theorem interruptIsPendingUntilAcceptOrReset : Obligations.InterruptIsPendingUntilAcceptOrReset := by
  refine fun s p hp => ⟨irqPending_iff s, fun hpend => ?_⟩
  obtain ⟨hwired, hv⟩ := (irqPending_iff s).1 hpend
  obtain ⟨t, ht, hclear⟩ := edge_clears_rspValid_iff p (s := taken s) hv
  have hirq : irqPending t = t.rspValid := by rw [irqPending, hwired, Bool.true_and, outputs_rspValid]
  exact ⟨t, (step_binary hp).trans ht, hirq ▸ hclear⟩

/-! Several instances. -/

/-- Where the own step of block `k` answers, the platform's edge writes place `k` of the list. -/
theorem platformStep_of_step {ss : List State} {k : Nat} {s t : State} (hs : ss[k]? = some s)
    (ht : step s = .next t) : platformStep k ss = some (.next (ss.set k t)) := by
  induction ss generalizing k with
  | nil => cases hs
  | cons x xs ih =>
    cases k with
    | zero =>
      obtain rfl : x = s := Option.some.inj hs
      simp only [platformStep, ht, List.set_cons_zero]
    | succ k => simp only [platformStep, ih hs, List.set_cons_succ]

/-- Settles O57: writing place k of a list leaves the other places as they were. -/
theorem instancesDoNotTouchEachOther : Obligations.InstancesDoNotTouchEachOther :=
  fun _ _ _ _ hs ht => ⟨platformStep_of_step hs ht, fun _ hj => List.getElem?_set_ne hj.symm⟩

end Sys2Proof.Machine
end

section
/-! Reset and hazards (70_reset_and_hazards.md): what each edge of R235 leaves, the run of a command from its
accept edge to its response, and the command that a reset edge abandons. -/

namespace Sys2Proof.Machine

/-! The sample at the front of the inputs. -/

theorem sampleOf_of_inputs {s : State} {p : Ports} {xs : List PortSample} (h : s.inputs = .binary p :: xs) :
    sampleOf s.inputs = .binary p := by
  rw [h]
  rfl

theorem taken_inputs_of_inputs {s : State} {x : PortSample} {xs : List PortSample} (h : s.inputs = x :: xs) :
    (taken s).inputs = xs := by
  rw [taken_inputs, h, List.tail_cons]

/-! The accept edge. -/

theorem latency_encode (z : Config.Seed) : latency 0b00 z = Config.latEnc z := rfl
theorem latency_decode (z : Config.Seed) : latency 0b01 z = Config.latDec z := rfl
theorem latency_validate (z : Config.Seed) : latency 0b10 z = Config.latVal z := rfl

theorem step_accept {s : State} {p : Ports} (hp : sampleOf s.inputs = .binary p) (hr : p.rst = false)
    (hb : s.busy = false) (hv : p.cmdValid = true) : step s = .next (acceptEdge p (taken s)) :=
  (step_binary hp).trans (edge_accept hr hb hv)

/-- Settles O38: REMAIN is the latency of the op, drawn with the seed of this edge. -/
theorem acceptEdgeCapturesTheCommand : Obligations.AcceptEdgeCapturesTheCommand := by
  intro s p hp hr hb hv
  obtain ⟨hlo, hhi⟩ := latency_range p.cmdOp (seed (portWord p) (taken s))
  have htick : (seed (portWord p) (taken s)).tick = s.freeTick := rfl
  have hcmd : (seed (portWord p) (taken s)).cmd = portWord p := rfl
  refine ⟨acceptEdge p (taken s), step_accept hp hr hb hv, hlo, hhi, fun hop => ⟨_, htick, hcmd, ?_⟩,
    fun hop => ⟨_, htick, hcmd, ?_⟩, fun hop => ⟨_, htick, hcmd, ?_⟩, fun hop => ⟨_, htick, hcmd, ?_⟩, rfl⟩
  · rw [acceptEdge_remain, hop, latency_encode]
  · rw [acceptEdge_remain, hop, latency_decode]
  · rw [acceptEdge_remain, hop, latency_validate]
  · rw [acceptEdge_remain, hop, latency_rsv]

/-- The accepted command is L = `n + 1` edges from its response, within LAT_MAX (R32). -/
theorem acceptEdge_remain_eq_succ (p : Ports) (s : State) :
    ∃ n, (acceptEdge p s).remain = n + 1 ∧ n + 1 ≤ Config.latMax := by
  obtain ⟨hlo, hhi⟩ := latency_range p.cmdOp (seed (portWord p) s)
  obtain ⟨n, hn⟩ := Nat.exists_eq_add_of_le' hlo
  exact ⟨n, (acceptEdge_remain p s).trans hn, hn ▸ hhi⟩

/-! The busy edges. -/

/-- Settles O34: at REMAIN 1 the edge is the completion edge, and taking the sample captures nothing. -/
theorem completionEdgeExecutesTheCapturedCommand :
    Obligations.CompletionEdgeExecutesTheCapturedCommand :=
  fun _ _ hp hr hb h1 => (step_binary hp).trans (edge_completion hr hb h1)

theorem step_countdown {s : State} {p : Ports} (hp : sampleOf s.inputs = .binary p) (hr : p.rst = false)
    (hb : s.busy = true) (h1 : s.remain ≠ 1) : step s = .next (countdownEdge (taken s)) :=
  (step_binary hp).trans (edge_countdown hr hb h1)

theorem State.eq_with_busy {t : State} {b : Bool} (h : t.busy = b) : t = { t with busy := b } := by
  rw [← h]

/-- Settles O39: the countdown writes REMAIN and draws the response registers, and BUSY was 1. -/
theorem busyEdgeCountsDown : Obligations.BusyEdgeCountsDown := fun s _ hp hr hb h1 =>
  ⟨_, step_countdown hp hr hb h1, State.eq_with_busy (t := countdownEdge (taken s)) hb⟩

/-- Without reset no port reaches a busy block (R237). -/
theorem edge_busy_eq {p q : Ports} {s : State} (hp : p.rst = false) (hq : q.rst = false)
    (hb : s.busy = true) : edge p s = edge q s := by
  by_cases h1 : s.remain = 1
  · rw [edge_completion hp hb h1, edge_completion hq hb h1]
  · rw [edge_countdown hp hb h1, edge_countdown hq hb h1]

/-- Settles O41: both samples give the one edge of the busy block, which keeps the captured command. -/
theorem busyBlockIgnoresTheCommandPorts : Obligations.BusyBlockIgnoresTheCommandPorts := by
  intro s p q rest hp hq hb
  have hready : (outputs s).cmdReady = false := by rw [outputs_cmdReady, hb, Bool.not_true]
  obtain ⟨t, ht, hc⟩ := edge_busy_captured (s := { s with inputs := rest }) hp hb
  exact ⟨hready, t, (step_binary rfl).trans ht,
    (step_binary rfl).trans ((edge_busy_eq (s := { s with inputs := rest }) hq hp hb).trans ht), hc⟩

/-! The idle edges, and the reset edge before them. -/

/-- Settles O40: one idle edge only takes its sample, and the next one finds the block idle again. -/
theorem idleEdgeChangesNoRegister : Obligations.IdleEdgeChangesNoRegister := by
  intro ps rest s hps hb hin
  induction ps generalizing s with
  | nil =>
    obtain rfl : s.inputs = rest := hin
    rfl
  | cons p ps ih =>
    obtain ⟨⟨hr, hv⟩, hps'⟩ := List.forall_mem_cons.1 hps
    have hstep : step s = .next (taken s) :=
      (step_binary (sampleOf_of_inputs hin)).trans (edge_hold hr hb hv)
    exact (core_run_succ ps.length hstep).trans (ih (taken s) hps' hb (taken_inputs_of_inputs hin))

theorem step_reset {s : State} {p : Ports} (hp : sampleOf s.inputs = .binary p) (hr : p.rst = true) :
    step s = .next (resetEdge (taken s)) :=
  (step_binary hp).trans (edge_of_rst _ hr)

/-- Settles O37: the reset edge writes every visible register, whatever power-up left there. -/
theorem oneResetEdgeAfterPowerUpIsEnough : Obligations.OneResetEdgeAfterPowerUpIsEnough :=
  fun _ _ _ hr => ⟨_, step_reset rfl hr, coherent_resetEdge _, rfl, rfl⟩

/-- Settles O47: the reset edge leaves the block idle with its registers 0, and idle edges keep them. -/
theorem resetAbandonsTheCommandInFlight : Obligations.ResetAbandonsTheCommandInFlight := by
  intro s p ps rest hr hps hin
  have hreset := step_reset (sampleOf_of_inputs hin) hr
  have hidle := idleEdgeChangesNoRegister ps rest (resetEdge (taken s)) hps (resetEdge_busy _)
    (taken_inputs_of_inputs hin)
  exact ⟨_, (core_run_succ ps.length hreset).trans hidle, rfl, rfl, rfl, rfl, rfl⟩

/-! From the accept edge to the response. -/

/-- The block is idle and holds the response of command word `w`, the last one it captured. -/
structure Answered (w : CmdWord) (s : State) : Prop where
  idle     : s.busy = false
  valid    : s.rspValid = true
  command  : captured s = w
  coherent : Coherent s

theorem Answered.rspOp_eq_and_respond {w : CmdWord} {s : State} (h : Answered w s) :
    s.rspOp = opField w ∧ respond (decodeCmd w) = some (response s) := by
  obtain ⟨hb, hv, rfl, hc⟩ := h
  obtain ⟨-, ha⟩ := (coherent_iff_of_idle hb).1 hc
  rw [if_pos hv] at ha
  obtain ⟨hop, hresp⟩ := ha
  exact ⟨by rw [hop, captured, opField_cmdWord], hresp⟩

/-- The completion edge leaves the block answered (R33, R238). -/
theorem edge_completion_answered {p : Ports} {s : State} (hr : p.rst = false) (hb : s.busy = true)
    (h1 : s.remain = 1) : ∃ t, edge p s = .next t ∧ Answered (captured s) t := by
  obtain ⟨r, hresp, -, he⟩ := exec_answers (decodeCmd (captured s))
  have hop : (decodeCmd (captured s)).op = s.cmdOpL := by rw [op_decodeCmd, captured, opField_cmdWord]
  rw [edge_completion hr hb h1, he, hop]
  exact ⟨_, rfl, rfl, rfl, rfl, coherent_completed hresp⟩

/-- A busy block with REMAIN `n + 1` stays busy for `n` edges and is answered after one more. -/
theorem run_busy_answered (n : Nat) {s : State} {ps : List Ports} {rest : List PortSample}
    (hb : s.busy = true) (hv : s.rspValid = false) (hrem : s.remain = n + 1)
    (hps : ∀ q ∈ ps, q.rst = false) (hlen : n < ps.length) (hin : s.inputs = ps.map .binary ++ rest) :
    (∀ k ≤ n, ∃ u : State, Sys2Proof.core.run k s = .next u ∧ u.busy = true ∧ u.rspValid = false) ∧
    ∃ t : State, Sys2Proof.core.run (n + 1) s = .next t ∧ Answered (captured s) t := by
  induction n generalizing s ps with
  | zero =>
    obtain ⟨q, qs, rfl⟩ := List.exists_cons_of_length_pos hlen
    obtain ⟨hq, -⟩ := List.forall_mem_cons.1 hps
    obtain ⟨t, ht, ha⟩ := edge_completion_answered (s := taken s) hq hb hrem
    have hstep := (step_binary (sampleOf_of_inputs hin)).trans ht
    refine ⟨fun k hk => ?_, t, core_run_succ 0 hstep, ha⟩
    obtain rfl := Nat.le_zero.1 hk
    exact ⟨s, rfl, hb, hv⟩
  | succ n ih =>
    obtain ⟨q, qs, rfl⟩ := List.exists_cons_of_length_pos (Nat.zero_lt_of_lt hlen)
    obtain ⟨hq, hqs⟩ := List.forall_mem_cons.1 hps
    have h1 : s.remain ≠ 1 := by omega
    have hstep := step_countdown (sampleOf_of_inputs hin) hq hb h1
    have hrem' : (countdownEdge (taken s)).remain = n + 1 := by
      rw [countdownEdge_remain, taken_remain, hrem, Nat.add_sub_cancel]
    obtain ⟨hbusy, t, ht, ha⟩ := ih (s := countdownEdge (taken s)) hb hv hrem' hqs
      (Nat.lt_of_succ_lt_succ hlen) (taken_inputs_of_inputs hin)
    refine ⟨fun k hk => ?_, t, (core_run_succ (n + 1) hstep).trans ht, ha⟩
    cases k with
    | zero => exact ⟨s, rfl, hb, hv⟩
    | succ k =>
      obtain ⟨u, hu, hbv⟩ := hbusy k (Nat.le_of_succ_le_succ hk)
      exact ⟨u, (core_run_succ k hstep).trans hu, hbv⟩

/-- Settles O46: L is the latency drawn at the accept edge, and the busy block counts it down. -/
theorem acceptedCommandIsAnsweredWithinLatMax : Obligations.AcceptedCommandIsAnsweredWithinLatMax := by
  intro s p ps rest hb hr hv hps hlen hin
  have hstep := step_accept (sampleOf_of_inputs hin) hr hb hv
  obtain ⟨n, hn, hhi⟩ := acceptEdge_remain_eq_succ p (taken s)
  obtain ⟨hbusy, t, ht, ha⟩ := run_busy_answered n (acceptEdge_busy ..) (acceptEdge_rspValid ..) hn hps
    (Nat.lt_of_lt_of_le hhi hlen) (taken_inputs_of_inputs hin)
  rw [captured_acceptEdge] at ha
  obtain ⟨hop, hresp⟩ := ha.rspOp_eq_and_respond
  rw [portWord, opField_cmdWord] at hop
  refine ⟨n + 1, Nat.succ_pos n, hhi, fun k hk1 hk => ?_, t, (core_run_succ (n + 1) hstep).trans ht,
    ha.idle, ha.valid, hop, hresp⟩
  obtain ⟨j, rfl⟩ := Nat.exists_eq_add_of_le' hk1
  obtain ⟨u, hu, hbv⟩ := hbusy j (Nat.le_of_succ_le_succ hk)
  exact ⟨u, (core_run_succ j hstep).trans hu, hbv⟩

/-! A host that resets the block, issues a command and waits. -/

theorem drive_reset (ready valid a : Bool) (rest : List HostAct) :
    drive ready valid (.reset :: rest) a = (resetPorts, rest, false) := rfl

theorem drive_wait_of_invalid (a : Bool) (rest : List HostAct) {s : State} (hv : s.rspValid = false) :
    drive (outputs s).cmdReady (outputs s).rspValid (.wait :: rest) a = (idlePorts, .wait :: rest, a) := by
  rw [outputs_rspValid, hv]
  rfl

/-- A last `wait` has ended once RSP_VALID is sampled (R248). -/
theorem ended_wait_of_valid (a : Bool) {s : State} (hv : s.rspValid = true) :
    (System.mk [.wait] a s).ended = true := by
  simp [System.ended, hv]

/-- A host that waits on a busy block with REMAIN `n + 1` waits for `n + 1` edges. -/
theorem systemRun_wait_answered (n : Nat) (a : Bool) {s : State} (hb : s.busy = true)
    (hv : s.rspValid = false) (hrem : s.remain = n + 1) :
    ∃ t, systemRun (n + 1) ⟨[.wait], a, s⟩ = .next ⟨[.wait], a, t⟩ ∧ Answered (captured s) t := by
  induction n generalizing s with
  | zero =>
    obtain ⟨t, ht, ha⟩ := edge_completion_answered (p := idlePorts) (s := { s with inputs := [] }) rfl hb hrem
    have hsys := systemStep_of_step (drive_wait_of_invalid a [] hv) ((step_binary rfl).trans ht)
    exact ⟨t, systemRun_succ_of_next 0 hsys, ha⟩
  | succ n ih =>
    have h1 : s.remain ≠ 1 := by omega
    have hstep := step_countdown (s := { s with inputs := [.binary idlePorts] }) rfl rfl hb h1
    have hsys := systemStep_of_step (drive_wait_of_invalid a [] hv) hstep
    have hrem' : (countdownEdge { s with inputs := [] }).remain = n + 1 := by
      rw [countdownEdge_remain, hrem, Nat.add_sub_cancel]
    obtain ⟨t, ht, ha⟩ := ih (s := countdownEdge { s with inputs := [] }) hb hv hrem'
    exact ⟨t, (systemRun_succ_of_next (n + 1) hsys).trans ht, ha⟩

/-- The reset statement takes one edge, after which the block is idle (R82, R230). -/
theorem systemStep_reset (rest : List HostAct) (a : Bool) (s : State) :
    ∃ t, systemStep ⟨.reset :: rest, a, s⟩ = .next ⟨rest, false, t⟩ ∧ t.busy = false :=
  ⟨_, systemStep_of_step (drive_reset ..) (step_reset rfl rfl), rfl⟩

/-- An idle block accepts an issued command at the next edge (R236). -/
theorem systemStep_issue_of_idle (i : Instr) (rest : List HostAct) (a : Bool) {s : State}
    (hb : s.busy = false) :
    ∃ n t, systemStep ⟨.issue i :: rest, a, s⟩ = .next ⟨rest, true, t⟩ ∧ t.busy = true ∧
      t.rspValid = false ∧ captured t = encodeCmd i ∧ t.remain = n + 1 ∧ n + 1 ≤ Config.latMax := by
  have hd : drive (outputs s).cmdReady (outputs s).rspValid (.issue i :: rest) a = (portsOf i, rest, true) := by
    rw [outputs_cmdReady, hb, Bool.not_false, drive_issue_of_ready]
  have hstep := step_accept (s := { s with inputs := [.binary (portsOf i)] }) rfl rfl hb rfl
  obtain ⟨n, hn, hhi⟩ := acceptEdge_remain_eq_succ (portsOf i) { s with inputs := [] }
  exact ⟨n, _, systemStep_of_step hd hstep, rfl, rfl, rfl, hn, hhi⟩

/-- Settles O55: one edge resets, one accepts, and the wait lasts for the latency drawn. -/
theorem oneCommandProgramEndsWithItsResponse : Obligations.OneCommandProgramEndsWithItsResponse := by
  intro i s
  obtain ⟨s₁, hreset, hidle⟩ := systemStep_reset [.issue i, .wait] false s
  obtain ⟨n, s₂, hissue, hb, hv, hcmd, hrem, hhi⟩ := systemStep_issue_of_idle i [.wait] false hidle
  obtain ⟨t, hwait, ha⟩ := systemRun_wait_answered n true hb hv hrem
  obtain ⟨hop, hresp⟩ := ha.rspOp_eq_and_respond
  rw [hcmd, encodeCmd, opField_cmdWord] at hop
  rw [hcmd, decodeCmd_encodeCmd] at hresp
  have hrun : systemRun (n + 1 + 2) ⟨[.reset, .issue i, .wait], false, s⟩ = .next ⟨[.wait], true, t⟩ := by
    rw [systemRun_succ_of_next _ hreset, systemRun_succ_of_next _ hissue, hwait]
  exact ⟨n + 1 + 2, Nat.add_le_add_right hhi 2, _, hrun, ended_wait_of_valid true ha.valid, ha.idle,
    ha.valid, hop, hresp, ha.coherent⟩

end Sys2Proof.Machine
end
